-- ==== Sys2Proof/Word.lean ====
section
/-! DEFINITION. The plain words of the block: bits, bytes, bit strings, Symbols (spec/00_scope.md R6, R7, R9). -/

namespace Sys2Proof

/-- A byte: an input byte, an output byte, a host register (R6 `BYTE_W`, R73). -/
abbrev Byte := BitVec 8

/-- A bit string, its head being `b[0]`, the first bit in stream order (R7). -/
abbrev Bits := List Bool

/-- The nine-bit symbol field: 0 to 255 a byte value, 256 the sentinel, 257 to 511 reserved (R99, R100). -/
abbrev Symbol := BitVec 9

end Sys2Proof
end

