-- ==== Sys2Proof/Config.lean ====
section
/-! DEFINITION. The implementation parameters of spec/00_scope.md R6 and the free values of spec/93_implementation_defined.md.
A parameter the spec leaves OPEN, and a value the spec leaves unspecified, is an opaque constant: no proof can see it. -/

namespace Sys2Proof

/-- `N_SYM`: the alphabet size, 256 byte values and the sentinel (R6). -/
def Config.nSym : Nat := 257

/-- `EOS_SYM`: the sentinel Symbol (R6). -/
def Config.eosSym : Symbol := 256

/-- `CNT_W`: width of a counter and of a node weight; 32 is the spec's default (R6, D6; DESIGN CHOICE, assumption 2). -/
def Config.cntW : Nat := 32

/-- `MAX_IN = 2^CNT_W - 2`: the longest input COMPRESS accepts, in bytes (R6, R123). -/
def Config.maxIn : Nat := 2 ^ Config.cntW - 2

/-- `NODE_CAP`: number of entries of the node store (R6, R27). -/
def Config.nodeCap : Nat := 513

/-- Number of entries of the traversal stack `STK` (R30). -/
def Config.stkCap : Nat := 257

/-- `MAX_CODE_LEN`: the longest codeword in bits (R6, R155). -/
def Config.maxCodeLen : Nat := 256

/-- `MAGIC`: OPEN, any 32-bit value, the same for both commands (R6, R96, D1; assumption 1). -/
opaque Config.magic : BitVec 32

/-- `HUFF_BASE`: OPEN, the byte address the platform gives the host register map (R73; assumption 16). -/
opaque Config.huffBase : Nat

/-- The input position after an `EOS` answer: unspecified (R61, R62, U8); the n-th draw of it (assumption 3). -/
opaque Config.posAfterEos : Nat → Nat

/-- The input position of a stream whose command a reset abandoned: stated nowhere; the n-th draw of it (assumption 14). -/
opaque Config.posAfterAbandon : Nat → Nat

/-- The value of a padding bit in the reference output collaborator (R68, D12; DESIGN CHOICE, assumption 4). -/
def Config.padBit : Bool := false

end Sys2Proof
end

