-- ==== Sys2Proof/Syntax.lean ====
section
/-! DEFINITION. The block's operations, one constructor per row of spec/opcode_table.json (spec/00_scope.md R16,
spec/30_encoding.md R110): two host commands, twelve phases, six tokens of the compressed file. -/

namespace Sys2Proof

/-- A trie as a value, `Leaf(sym, weight) | Internal(weight, left, right)` (R12). -/
inductive Trie where
  | leaf (sym : Symbol) (weight : Nat)
  | internal (weight : Nat) (left right : Trie)
deriving DecidableEq, Repr

/-- The operations of the block (R16). -/
inductive Instr where
  /-- Host command, `CMD.op = 0x01` (R92, R180). -/
  | compress
  /-- Host command, `CMD.op = 0x02` (R93, R200). -/
  | decompress
  /-- Phase 1 (R121). -/
  | cFreq
  /-- Phase 2 (R139). -/
  | cBuild
  /-- Phase 3 (R151). -/
  | cCodes
  /-- Phase 4 (R182). -/
  | cMagic
  /-- Phase 5 (R161). -/
  | cHeader
  /-- Phase 6 (R183). -/
  | cPayload
  /-- Phase 7 (R185). -/
  | cTerm
  /-- Phase 8 (R186). -/
  | cClose
  /-- Phase 9 (R202). -/
  | dMagic
  /-- Phase 10 (R164). -/
  | dHeader
  /-- Phase 11 (R203). -/
  | dWalk
  /-- Phase 12 (R206). -/
  | dClose
  /-- The magic field with the value it holds (R96). -/
  | magic (m : BitVec 32)
  /-- An internal-node token (R97). -/
  | nodeInternal
  /-- A leaf token with its symbol field (R98, R99). -/
  | nodeLeaf (sym : Symbol)
  /-- A codeword of a byte, its bits in stream order (R102). -/
  | codeword (c : Bits)
  /-- The codeword of Symbol 256 (R103). -/
  | terminator (c : Bits)
  /-- The padding bits after the terminator (R104). -/
  | pad (p : Bits)
deriving DecidableEq, Repr

end Sys2Proof
end

