-- ==== Sys2Proof/WellFormed.lean ====
section
/-! DEFINITION. Which instructions the encodings of spec/30_encoding.md admit. -/

namespace Sys2Proof

/-- An instruction's fields are ones its encoding can hold: a leaf token's symbol is a Symbol (R99, R100), a
codeword and the terminator have 1 to 256 bits (R102, R103), the padding has 0 to 7 bits (R104). The magic field
may hold any 32-bit value: a value other than `MAGIC` is refused by the phase that reads it, not by the format. -/
def WellFormed : Instr → Bool
  | .nodeLeaf sym => sym.toNat ≤ 256
  | .codeword c => 1 ≤ c.length && c.length ≤ Config.maxCodeLen
  | .terminator c => 1 ≤ c.length && c.length ≤ Config.maxCodeLen
  | .pad p => p.length ≤ 7
  | .compress | .decompress => true
  | .cFreq | .cBuild | .cCodes | .cMagic | .cHeader | .cPayload | .cTerm | .cClose => true
  | .dMagic | .dHeader | .dWalk | .dClose => true
  | .magic _ | .nodeInternal => true

end Sys2Proof
end

