-- ==== Sys2Proof/Decode.lean ====
section
/-! DEFINITION. The decoders of the three formats of spec/30_encoding.md (R90), and after them the encoder.
The formats are told apart by WHERE the bits stand (the CMD register, STATUS[7:4], a place of the compressed
file), never by the bits: each has its own decoder, total, rejecting by name. -/

namespace Sys2Proof

/-- `Field(n, v)`: the `n`-bit string of `v`, most significant bit first (R8). -/
def field : Nat → Nat → Bits
  | 0, _ => []
  | n + 1, v => v.testBit n :: field n v

/-- `Value(b)`: the integer a bit string spells, first bit most significant (R8). -/
def value (b : Bits) : Nat := b.foldl (fun a x => 2 * a + x.toNat) 0

/-- Why some bits are no instruction of the format they stand in. -/
inductive DecodeError where
  /-- `CMD.op` is neither 0x01 nor 0x02 (R94). -/
  | illegalCommand
  /-- `PHASE` is 0: no phase is running (R24). -/
  | noPhase
  /-- `PHASE` is 13 to 15, never taken by the core (R24, R109). -/
  | reservedPhase
  /-- Fewer bits are left than the token has (R62, R165). -/
  | truncated
  /-- A symbol field holds 257 to 511 (R100). -/
  | reservedSymbol
  /-- The trie is a single leaf, so no bit can be decoded with it (R168). -/
  | degenerateTrie
  /-- More than 7 bits of padding (R104). -/
  | notPadding
deriving DecidableEq, Repr

/-- Where the bits stand: what tells one format's words from another's (R90, R95, R105). -/
inductive Format where
  | cmd
  | phase
  | magic
  | tree
  /-- The payload needs the trie of the same file (R105, R110). -/
  | payload (t : Trie)
  | pad
deriving DecidableEq, Repr

/-- The command byte (R91 to R94). -/
def decodeCmd (op : Byte) : Except DecodeError Instr :=
  match op.toNat with
  | 1 => .ok .compress
  | 2 => .ok .decompress
  | _ => .error .illegalCommand

/-- The phase code of `STATUS[7:4]` (R24). -/
def decodePhase (p : BitVec 4) : Except DecodeError Instr :=
  match p.toNat with
  | 0 => .error .noPhase
  | 1 => .ok .cFreq
  | 2 => .ok .cBuild
  | 3 => .ok .cCodes
  | 4 => .ok .cMagic
  | 5 => .ok .cHeader
  | 6 => .ok .cPayload
  | 7 => .ok .cTerm
  | 8 => .ok .cClose
  | 9 => .ok .dMagic
  | 10 => .ok .dHeader
  | 11 => .ok .dWalk
  | 12 => .ok .dClose
  | _ => .error .reservedPhase

/-- The next `n` bits as an integer, and the bits after them; none when fewer are left (R61). -/
def takeField (n : Nat) (b : Bits) : Option (Nat × Bits) :=
  if n ≤ b.length then some (value (b.take n), b.drop n) else none

/-- The magic field (R96). -/
def decodeMagic (b : Bits) : Except DecodeError (Instr × Bits) :=
  match takeField 32 b with
  | some (v, rest) => .ok (.magic (BitVec.ofNat 32 v), rest)
  | none => .error .truncated

/-- A token of the tree header: its first bit tells its length (R97, R98, R105). -/
def decodeTree : Bits → Except DecodeError (Instr × Bits)
  | [] => .error .truncated
  | false :: rest => .ok (.nodeInternal, rest)
  | true :: rest =>
    match takeField 9 rest with
    | none => .error .truncated
    | some (v, rest) => if v ≤ 256 then .ok (.nodeLeaf (BitVec.ofNat 9 v), rest) else .error .reservedSymbol

/-- The walk from a node to a leaf, 0 left and 1 right: the leaf's Symbol, the bits of the path, the bits after
them; none when the bits end first (R102, R105). -/
def Trie.descend : Trie → Bits → Option (Symbol × Bits × Bits)
  | .leaf sym _, b => some (sym, [], b)
  | .internal _ _ _, [] => none
  | .internal _ l _, false :: b => (l.descend b).map fun (sym, path, rest) => (sym, false :: path, rest)
  | .internal _ _ r, true :: b => (r.descend b).map fun (sym, path, rest) => (sym, true :: path, rest)

/-- A codeword of the payload, or the terminator, by the trie of the file (R102, R103, R105). -/
def decodePayload (t : Trie) (b : Bits) : Except DecodeError (Instr × Bits) :=
  match t with
  | .leaf _ _ => .error .degenerateTrie
  | .internal _ _ _ =>
    match t.descend b with
    | none => .error .truncated
    | some (sym, path, rest) => .ok (if sym = Config.eosSym then .terminator path else .codeword path, rest)

/-- The padding: whatever the last 0 to 7 bits are (R104). -/
def decodePad (b : Bits) : Except DecodeError (Instr × Bits) :=
  if b.length ≤ 7 then .ok (.pad b, []) else .error .notPadding

/-- One instruction off the front of the bits that stand at `f`, with the bits after it. -/
def decode (f : Format) (b : Bits) : Except DecodeError (Instr × Bits) :=
  match f with
  | .cmd =>
    match takeField 8 b with
    | none => .error .truncated
    | some (v, rest) => (decodeCmd (BitVec.ofNat 8 v)).map fun i => (i, rest)
  | .phase =>
    match takeField 4 b with
    | none => .error .truncated
    | some (v, rest) => (decodePhase (BitVec.ofNat 4 v)).map fun i => (i, rest)
  | .magic => decodeMagic b
  | .tree => decodeTree b
  | .payload t => decodePayload t b
  | .pad => decodePad b

/-! The encoder, from the same encodings. -/

/-- The words of an instruction in stream order, most significant bit first (R8, R24, R92, R93, R96 to R104). -/
def encode : Instr → Bits
  | .compress => field 8 0x01
  | .decompress => field 8 0x02
  | .cFreq => field 4 1
  | .cBuild => field 4 2
  | .cCodes => field 4 3
  | .cMagic => field 4 4
  | .cHeader => field 4 5
  | .cPayload => field 4 6
  | .cTerm => field 4 7
  | .cClose => field 4 8
  | .dMagic => field 4 9
  | .dHeader => field 4 10
  | .dWalk => field 4 11
  | .dClose => field 4 12
  | .magic m => field 32 m.toNat
  | .nodeInternal => [false]
  | .nodeLeaf sym => true :: field 9 sym.toNat
  | .codeword c => c
  | .terminator c => c
  | .pad p => p

/-- Where an instruction's words stand, given the trie of the file (R90, R95). -/
def formatOf (t : Trie) : Instr → Format
  | .compress | .decompress => .cmd
  | .cFreq | .cBuild | .cCodes | .cMagic | .cHeader | .cPayload | .cTerm | .cClose => .phase
  | .dMagic | .dHeader | .dWalk | .dClose => .phase
  | .magic _ => .magic
  | .nodeInternal | .nodeLeaf _ => .tree
  | .codeword _ | .terminator _ => .payload t
  | .pad _ => .pad

/-- The tree header of a trie, its tokens in preorder (R101, R161 `SerBits`). -/
def serBits : Trie → Bits
  | .leaf sym _ => encode (.nodeLeaf sym)
  | .internal _ l r => encode .nodeInternal ++ serBits l ++ serBits r

/-- The byte a host file or stream byte is, as its eight bits in stream order (R8, R69). -/
def byteBits (b : Byte) : Bits := field 8 b.toNat

/-- The bit string of a file of bytes: the reference input collaborator (R69, D11). -/
def unpackBytes (f : List Byte) : Bits := f.flatMap byteBits

/-- The bytes of a bit string, first bit of the stream in bit 7 of byte 0; a last part of fewer than eight bits
is no byte yet (R67, R36). -/
def packBytes : Bits → List Byte
  | b0 :: b1 :: b2 :: b3 :: b4 :: b5 :: b6 :: b7 :: rest =>
    BitVec.ofNat 8 (value [b0, b1, b2, b3, b4, b5, b6, b7]) :: packBytes rest
  | _ => []

/-- The padding `OutClose` appends to `b` (R68). -/
def padFor (b : Bits) : Bits := List.replicate ((8 - b.length % 8) % 8) Config.padBit

/-- The number of bits and the number a row of spec/opcode_table.json stands for, read as an instruction.
A row's bits alone do not tell its format (R90), so the format is taken from the number of bits: 8 bits a CMD byte or,
where that byte is no command, a phase code or an internal-node token in a whole byte; 4 bits a phase code; 1 bit
an internal-node token; 10 or 16 bits a leaf token; 32 bits the magic; 0 or 7 bits padding. A codeword has no
fixed pattern (R102): no number of bits is read as one. -/
def decodeTableWord (nbits w : Nat) : Option Instr :=
  match nbits with
  | 8 =>
    match decodeCmd (BitVec.ofNat 8 w) with
    | .ok i => some i
    | .error _ =>
      if w = 0 then some .nodeInternal
      else if w < 16 then (decodePhase (BitVec.ofNat 4 w)).toOption
      else none
  | 4 => (decodePhase (BitVec.ofNat 4 w)).toOption
  | 32 => ((decode .magic (field 32 w)).map Prod.fst).toOption
  | 1 | 10 => ((decode .tree (field nbits w)).map Prod.fst).toOption
  | 16 => ((decode .tree (field 10 w)).map Prod.fst).toOption
  | 0 | 7 => ((decode .pad (field nbits w)).map Prod.fst).toOption
  | _ => none

end Sys2Proof
end

