-- ==== Sys2Proof/Machine/State.lean ====
section
/-! DEFINITION. All the state spec/10_state.md gives the machine (R20 to R36), as plain data, and the state after
reset (R37, R260). -/

namespace Sys2Proof.Machine

/-- `STATUS.STATE` (R22). -/
inductive RunState where
  /-- 0: no command since reset. -/
  | idle
  /-- 1: a command is running. -/
  | busy
  /-- 2: the last command ended in success. -/
  | done
  /-- 3: the last command, or an illegal command write, ended in an error. -/
  | error
deriving DecidableEq, Repr

/-- The error codes of `ERR[3:0]` (R221); codes 11 to 15 are never written. -/
inductive Err where
  | none
  | badMagic
  | truncHeader
  | noEos
  | construction
  | countOverflow
  | noCode
  | badSymbol
  | treeOverflow
  | degenerateTree
  | badCmd
deriving DecidableEq, Repr

/-- An entry of the node store (R27). -/
structure Node where
  /-- 1 for a leaf, 0 for an internal node. -/
  leaf : Bool
  /-- The Symbol of a leaf; 0 in an internal node. -/
  sym : Symbol
  /-- `CNT_W` bits; 0 in every node the decoder creates (R169). -/
  weight : Nat
  /-- 10 bits: index of the left child; 0 in a leaf. -/
  left : Nat
  /-- 10 bits: index of the right child; 0 in a leaf. -/
  right : Nat
deriving DecidableEq, Repr

/-- An entry of the code table: the codeword is `Field(len, val)`, and `len = 0` is no code (R29). -/
structure CodeEntry where
  len : Nat
  val : Nat
deriving DecidableEq, Repr

/-- An entry of the traversal stack: a node index and whether its left subtree has been finished (R30). -/
structure StkEntry where
  node : Nat
  leftDone : Bool
deriving DecidableEq, Repr

/-- A transaction on the IN port (R14 (2), R61, R63). -/
inductive InTx where
  | bits (n : Nat)
  | rewind
deriving DecidableEq, Repr

/-- A stream attached to IN (R35): what the collaborator delivers, the number of bits consumed, whether it
supports rewind (R63, R262), and the transactions made on it, oldest first (R14 (2), assumption 20). -/
structure InStream where
  data : Bits
  pos : Nat
  canRewind : Bool
  log : List InTx
deriving DecidableEq, Repr

/-- A stream attached to OUT (R35): the bits written, whether it is closed, and whether a reset abandoned the
command that was writing it (R261). The bytes of the file and the partial byte of R36 are views of `bits`. -/
structure OutStream where
  bits : Bits
  closed : Bool
  abandoned : Bool
deriving DecidableEq, Repr

/-- What the host does, one event at a time (R246, R264, R261; assumption 7). -/
inductive HostEvent where
  /-- The host waits: the core runs its current phase. -/
  | run
  /-- A stream is attached to IN at bit `pos`, and a fresh open empty stream to OUT (R246, R262). -/
  | attach (data : Bits) (pos : Nat) (canRewind : Bool)
  /-- What the input stream holds changes under the core (R264, U15). -/
  | inputChanges (data : Bits)
  /-- `MemWrite(HUFF_BASE + off, 1, v)` (R73). -/
  | write (off : Nat) (v : Byte)
  /-- `MemRead(HUFF_BASE + off, 1)` (R73). -/
  | read (off : Nat)
  /-- Reset between two phases (R260, R261). -/
  | reset
  /-- Reset inside the current phase, after `k` of the bits it writes have been written (R261). -/
  | resetDuring (k : Nat)
deriving DecidableEq, Repr

/-- The state of the block (R20) and of its environment (R35). -/
structure State where
  /-- `CMD`, 8 bits (R21). -/
  cmd : Byte
  /-- `STATUS.STATE`, 2 bits (R22). -/
  runState : RunState
  /-- `PHASE`, `STATUS[7:4]`, 4 bits (R24). -/
  phase : BitVec 4
  /-- `ERR`, 8 bits of which 7:4 read as 0 (R23). -/
  err : Err
  /-- `N_IN`, `CNT_W` bits (R25). -/
  nIn : Nat
  /-- `NODE_COUNT`, 10 bits (R25). -/
  nodeCount : Nat
  /-- `ROOT`, 10 bits (R25). -/
  root : Nat
  /-- `CUR`, 10 bits (R25). -/
  cur : Nat
  /-- `PATH`, 256 bits (R25). -/
  path : Nat
  /-- `PLEN`, 9 bits (R25). -/
  plen : Nat
  /-- `SP`, 9 bits (R25). -/
  sp : Nat
  /-- `FREQ[0..256]` (R26). -/
  freq : Vector Nat 257
  /-- `NODE[0..512]` (R27). -/
  nodes : Vector Node 513
  /-- `LIVE[0..512]` (R28). -/
  live : Vector Bool 513
  /-- `CODE[0..256]` (R29). -/
  code : Vector CodeEntry 257
  /-- `STK[0..256]` (R30). -/
  stk : Vector StkEntry 257
  /-- The stream attached to IN, if any (R35, R37). -/
  inp : Option InStream
  /-- The stream attached to OUT, if any (R35, R37). -/
  out : Option OutStream
  /-- The streams that resets have taken off IN, newest first (R37; assumption 13). -/
  detachedIn : List InStream
  /-- The streams that resets have taken off OUT, newest first, each as the reset left it (R37, R261; assumption 13). -/
  detachedOut : List OutStream
  /-- What the host is going to do, next event first (assumption 7). -/
  host : List HostEvent
  /-- The model's own: how many unspecified values have been drawn (assumption 21). -/
  draws : Nat
deriving DecidableEq, Repr

/-- The machine's own stops. Each is met only in states that no run reaches, and each is safe: the model stops
where the spec gives no rule (assumption 15). -/
inductive Fault where
  /-- An index register or link names an entry its table does not have: NODE has 513, CODE and STK 257 (R27, R29,
  R30). Raised by the traversals, the walk and the header tokens. Safe: there is no such entry. -/
  | tableIndex
  /-- `C_CODES` or `C_HEADER` would push a 258th entry on `STK` (R30, R173). Safe: the store then holds no trie. -/
  | stackOverflow
  /-- A traversal visits more nodes than `NODE` has, so it is not over a trie (R31); the scans of the input have
  the same bound by its length and never meet it (R270). Safe: the rule's own recursion would not end. -/
  | unendingLoop
  /-- The core is BUSY and `PHASE` is 0 or 13 to 15 (R24). Raised by the step. Safe: no rule has that code. -/
  | noSuchPhase
deriving DecidableEq, Repr

/-- What the model gives no meaning, because the spec gives none. -/
inductive Refusal where
  /-- The instruction has no meaning yet (raised by exec's arms alone). Safe. -/
  | notModelled (mnemonic : String)
  /-- A phase reads IN and no stream is attached (R246, R262). Safe: the spec says nothing of such a run. -/
  | noInputStream
  /-- A phase writes or closes OUT and no stream is attached (R246, R262). Safe: the spec says nothing of it. -/
  | noOutputStream
  /-- OUT was closed, or abandoned by a reset, before this transaction (R64, R265, U17). Safe: `refuse` is the
  spec's own treatment. -/
  | outputUsed
  /-- COMPRESS rewinds an input that does not support it (R63, R262). Safe: the spec says nothing of such a run. -/
  | inputCannotRewind
  /-- A host access at an offset other than 0x0, 0x4, 0x8 (R73, U21). Safe: `refuse` is the spec's treatment. -/
  | hostOffset
  /-- The host attaches streams while the core is BUSY (R246, U17). Safe: `refuse` is the spec's treatment. -/
  | streamTouchedWhileBusy
deriving DecidableEq, Repr

/-- What the step is about to do, read from the state by `fetch` (R24, R77). -/
inductive Fetched where
  /-- Run this instruction on this state. -/
  | instr (i : Instr) (s : State)
  /-- Run this instruction and cut it off by a reset after `k` written bits (R261). -/
  | cut (k : Nat) (i : Instr) (s : State)
  /-- No instruction: the event's own outcome. -/
  | settled (o : Host.Outcome State Fault Refusal)
deriving Repr

/-- A node-store entry after reset: unspecified (R37). The value nearest zero that is a trie by itself, so that
no link of a reset store leads anywhere (R31; DESIGN CHOICE, unsafe, assumption 5). -/
def Node.reset : Node := { leaf := true, sym := 0, weight := 0, left := 0, right := 0 }

/-- The machine right after reset: the control registers as R37 and R260 say; no stream attached (R37); the working
registers and tables, which the spec leaves unspecified, at values the model names (DESIGN CHOICE, unsafe,
assumption 5). -/
def State.reset : State where
  cmd := 0
  runState := .idle
  phase := 0
  err := .none
  nIn := 0
  nodeCount := 0
  root := 0
  cur := 0
  path := 0
  plen := 0
  sp := 0
  freq := Vector.replicate 257 0
  nodes := Vector.replicate 513 Node.reset
  live := Vector.replicate 513 false
  code := Vector.replicate 257 ⟨0, 0⟩
  stk := Vector.replicate 257 ⟨0, false⟩
  inp := none
  out := none
  detachedIn := []
  detachedOut := []
  host := []
  draws := 0

end Sys2Proof.Machine
end

