-- ==== Sys2Proof/Machine/Operands.lean ====
section
/-! DEFINITION. The operand forms: table entries by index (spec/00_scope.md R18) and host registers by offset
(spec/20_memory.md R73). There is no addressing mode. -/

namespace Sys2Proof.Machine

/-- `FREQ[v]` (R26). -/
def State.readFreq (s : State) (v : Nat) : Nat := s.freq[v]?.getD 0

/-- `FREQ[v] <- c` (R26). -/
def State.writeFreq (s : State) (v c : Nat) : State := { s with freq := s.freq.setIfInBounds v c }

/-- `CODE[v]` (R29). -/
def State.readCode (s : State) (v : Nat) : CodeEntry := s.code[v]?.getD ⟨0, 0⟩

/-- `CODE[v] <- e` (R29). -/
def State.writeCode (s : State) (v : Nat) (e : CodeEntry) : State := { s with code := s.code.setIfInBounds v e }

/-- `NODE[i]`, none where the store has no such entry (R27). -/
def State.readNode (s : State) (i : Nat) : Option Node := s.nodes[i]?

/-- `NODE[i] <- n` (R27). -/
def State.writeNode (s : State) (i : Nat) (n : Node) : State := { s with nodes := s.nodes.setIfInBounds i n }

/-- `NODE[i].weight`, written `w(i)` in R139. -/
def State.weight (s : State) (i : Nat) : Nat := (s.readNode i).elim 0 Node.weight

/-- `LIVE[i]` (R28). -/
def State.readLive (s : State) (i : Nat) : Bool := s.live[i]?.getD false

/-- `LIVE[i] <- b` (R28). -/
def State.writeLive (s : State) (i : Nat) (b : Bool) : State := { s with live := s.live.setIfInBounds i b }

/-- A leaf's entry: no children (R27). -/
def leafNode (sym : Symbol) (weight : Nat) : Node := { leaf := true, sym, weight, left := 0, right := 0 }

/-- An internal node's entry: its symbol field is written as 0 (R27, R136). -/
def internalNode (weight left right : Nat) : Node := { leaf := false, sym := 0, weight, left, right }

/-- The three host registers (R73). -/
inductive HostReg where
  | cmd
  | status
  | err
deriving DecidableEq, Repr

/-- The register at a byte offset from `HUFF_BASE` (R73); none where there is no register (U21). -/
def hostReg (off : Nat) : Option HostReg :=
  match off with
  | 0x0 => some .cmd
  | 0x4 => some .status
  | 0x8 => some .err
  | _ => none

/-- The offset of a byte address of the platform: the block sees offsets from `HUFF_BASE` only (R73, R74). -/
def hostOffset (addr : Nat) : Option Nat :=
  if Config.huffBase ≤ addr then some (addr - Config.huffBase) else none

end Sys2Proof.Machine
end

