-- ==== Sys2Proof/Machine/Flags.lean ====
section
/-! DEFINITION. The status and error registers as the host reads them (spec/10_state.md R22, R23, spec/60_exceptions.md R221) and the conditions the
rules test (R34). There is no condition-code register. -/

namespace Sys2Proof.Machine

/-- The value of `STATUS.STATE` (R22). -/
def RunState.code : RunState → Nat
  | .idle => 0
  | .busy => 1
  | .done => 2
  | .error => 3

/-- The value of `ERR[3:0]` (R221). -/
def Err.code : Err → Nat
  | .none => 0
  | .badMagic => 1
  | .truncHeader => 2
  | .noEos => 3
  | .construction => 4
  | .countOverflow => 5
  | .noCode => 6
  | .badSymbol => 7
  | .treeOverflow => 8
  | .degenerateTree => 9
  | .badCmd => 10

/-- `STATUS` as a byte: `PHASE` in 7:4, 3:2 read as 0, `STATE` in 1:0 (R22). -/
def State.statusByte (s : State) : Byte := BitVec.ofNat 8 (s.phase.toNat * 16 + s.runState.code)

/-- `ERR` as a byte: the code in 3:0, 7:4 read as 0 (R23). -/
def State.errByte (s : State) : Byte := BitVec.ofNat 8 s.err.code

/-- `MemRead(HUFF_BASE + off, 1)`: a read has no side effect (R73). -/
def State.hostRead (s : State) (off : Nat) : Option Byte :=
  match hostReg off with
  | some .cmd => some s.cmd
  | some .status => some s.statusByte
  | some .err => some s.errByte
  | none => none

/-- `MemRead(addr, 1)` at an address of the platform (R10, R73). -/
def State.memRead (s : State) (addr : Nat) : Option Byte := (hostOffset addr).bind s.hostRead

/-- Number of live nodes among those in use: the loop condition of the builder (R34, R132, R139). -/
def State.liveCount (s : State) : Nat := (List.range s.nodeCount).countP s.readLive

/-- The code of the phase, `P_NONE` or one of the twelve (R24). -/
def phaseCode : Instr → BitVec 4
  | .cFreq => 1
  | .cBuild => 2
  | .cCodes => 3
  | .cMagic => 4
  | .cHeader => 5
  | .cPayload => 6
  | .cTerm => 7
  | .cClose => 8
  | .dMagic => 9
  | .dHeader => 10
  | .dWalk => 11
  | .dClose => 12
  | .compress | .decompress => 0
  | .magic _ | .nodeInternal | .nodeLeaf _ | .codeword _ | .terminator _ | .pad _ => 0

end Sys2Proof.Machine
end

