-- ==== Sys2Proof/Machine/Ops.lean ====
section
/-! DEFINITION. The shared operations: the four port primitives (spec/20_memory.md R61 to R65), taking an error and an
illegal command (spec/60_exceptions.md R234, R231), accepting and ending a command, reset, the traversal stack. -/

namespace Sys2Proof.Machine

/-- Go on with `f` where `o` has answered; a fault or a refusal stands. -/
def andThen {σ τ : Type} (o : Host.Outcome σ Fault Refusal) (f : σ → Host.Outcome τ Fault Refusal) :
    Host.Outcome τ Fault Refusal :=
  match o with
  | .next a => f a
  | .fault r => .fault r
  | .refused r => .refused r

/-- The outcome of an instruction. -/
abbrev Result := Host.Outcome State Fault Refusal

/-- The outcome of one round of a loop: whether the loop goes on, and the state. -/
abbrev Round := Host.Outcome (Bool × State) Fault Refusal

/-! ## The ports -/

/-- `InBits(n)`: the next `n` bits as an integer, first bit most significant, or none for `EOS` when fewer are left
(R61). After `EOS` the position is unspecified, a free value (R62, U8, assumption 3). -/
def inBits (n : Nat) (s : State) : Host.Outcome (Option Nat × State) Fault Refusal :=
  match s.inp with
  | none => .refused .noInputStream
  | some i =>
    if n ≤ i.data.length - i.pos then
      .next (some (value ((i.data.drop i.pos).take n)),
        { s with inp := some { i with pos := i.pos + n, log := i.log ++ [.bits n] } })
    else
      .next (none,
        { s with
          inp := some { i with pos := Config.posAfterEos s.draws, log := i.log ++ [.bits n] }
          draws := s.draws + 1 })

/-- `InRewind()` (R63). -/
def inRewind (s : State) : Result :=
  match s.inp with
  | none => .refused .noInputStream
  | some i =>
    if i.canRewind then .next { s with inp := some { i with pos := 0, log := i.log ++ [.rewind] } }
    else .refused .inputCannotRewind

/-- `OutBits(n, v)` (R64). -/
def outBits (n v : Nat) (s : State) : Result :=
  match s.out with
  | none => .refused .noOutputStream
  | some o =>
    if o.closed || o.abandoned then .refused .outputUsed
    else .next { s with out := some { o with bits := o.bits ++ field n v } }

/-- `OutClose()` (R65): the padding and the delivery of the last byte are `OutStream.file`. -/
def outClose (s : State) : Result :=
  match s.out with
  | none => .refused .noOutputStream
  | some o =>
    if o.closed || o.abandoned then .refused .outputUsed
    else .next { s with out := some { o with closed := true } }

/-- The bytes the output collaborator has delivered: whole bytes while open, and at the close the last byte with
its padding (R36, R67, R68). That an open output has delivered every whole byte at once is the model's choice: R76 lets
any number of them stand in the collaborator's buffers until the close (DESIGN CHOICE, unsafe, assumption 23). -/
def OutStream.file (o : OutStream) : List Byte :=
  packBytes (if o.closed then o.bits ++ padFor o.bits else o.bits)

/-- The bits the collaborator has accepted and not yet delivered, at most seven (R36); that whole bytes are never among
them is the model's choice (R76; DESIGN CHOICE, unsafe, assumption 23). -/
def OutStream.pending (o : OutStream) : Bits := if o.closed then [] else o.bits.drop (o.bits.length / 8 * 8)

/-- A bound on the rounds of a loop that reads at least one bit a round (R204, R270). -/
def State.inputFuel (s : State) : Nat := (s.inp.elim 0 fun i => i.data.length) + 1

/-! ## Commands and errors -/

/-- `PHASE <- p` (R10, R24). -/
def State.setPhase (s : State) (p : BitVec 4) : State := { s with phase := p }

/-- The acceptance of a legal command (R180, R200). -/
def State.accept (s : State) (c : Byte) (p : BitVec 4) : State :=
  { s with cmd := c, err := .none, runState := .busy, phase := p }

/-- A write of a legal command: accepted unless a command is running, and then ignored (R21, R180, R200, R266). -/
def startCommand (c : Byte) (p : BitVec 4) (s : State) : Result :=
  if s.runState = .busy then .next s else .next (s.accept c p)

/-- A write of an illegal command while no command runs (R231): no port transaction. -/
def State.badCommand (s : State) (c : Byte) : State :=
  { s with cmd := c, err := .badCmd, phase := 0, runState := .error }

/-- `raise E` (R234): the error is recorded, the output closed, the command over; `PHASE` keeps the raising phase. -/
def raiseErr (e : Err) (s : State) : Result :=
  andThen (outClose { s with err := e }) fun s => .next { s with runState := .error }

/-- `raise E` inside a loop: the loop does not go on. -/
def raiseRound (e : Err) (s : State) : Round := andThen (raiseErr e s) fun s => .next (false, s)

/-- The end of a command in success (R186, R206): the return to the host (R19). -/
def endCommand (s : State) : Result :=
  andThen (outClose s) fun s => .next { s.setPhase 0 with runState := .done }

/-! ## Reset -/

/-- The reset event (R260): every register of the core as after reset, and no stream attached to a port (R37). The
streams themselves are not the core's: they leave the ports as they are, an OUT stream not closed where a command was
running and marked as abandoned (R261, assumption 13). -/
def State.doReset (s : State) : State :=
  { State.reset with
    detachedIn := s.inp.toList ++ s.detachedIn
    detachedOut :=
      (s.out.map fun o => if s.runState = .busy then { o with abandoned := true } else o).toList ++ s.detachedOut
    host := s.host
    draws := s.draws }

/-- The bits on OUT. -/
def State.outBitsSoFar (s : State) : Bits := s.out.elim [] fun o => o.bits

/-- Reset inside a phase that was to end in `o`: OUT has the first `k` of the bits the phase writes, no
`OutClose` has been issued, where IN stands nothing says (R261; a free value, assumption 14), and then the reset. -/
def State.abandon (s : State) (k : Nat) (o : Result) : State :=
  let written := match o with
    | .next t => t.outBitsSoFar.drop s.outBitsSoFar.length
    | .fault _ => []
    | .refused _ => []
  State.doReset
    { s with
      inp := s.inp.map fun i => { i with pos := Config.posAfterAbandon s.draws }
      out := s.out.map fun o => { o with bits := o.bits ++ written.take k }
      draws := s.draws + 1 }

/-! ## The traversal stack (R30)

What `STK` holds is the model's choice: R30 says that no rule gives its content (DESIGN CHOICE, assumption 22). An entry
is pushed at each internal node on the way down, its bit becomes 1 between the two subtrees, and it is popped after the
second one; a popped entry stays in the table as it was. -/

/-- Push a node whose left subtree is to be visited; none when all 257 entries are in use (DESIGN CHOICE, assumption
22). -/
def State.pushStk (s : State) (i : Nat) : Option State :=
  if s.sp < Config.stkCap then
    some { s with stk := s.stk.setIfInBounds s.sp ⟨i, false⟩, sp := s.sp + 1 }
  else none

/-- `PATH` and `PLEN` on the way down to a left child: a 0 is appended (R25, R151). -/
def State.pathDown (s : State) : State := { s with path := 2 * s.path, plen := s.plen + 1 }

/-- `PATH` from a left child to its right sibling: the last bit becomes 1 (R25, R151). -/
def State.pathAcross (s : State) : State := { s with path := s.path + 1 }

/-- `PATH` and `PLEN` on the way up: the last bit is dropped (R25, R151). -/
def State.pathUp (s : State) : State := { s with path := s.path / 2, plen := s.plen - 1 }

/-- A subtree has been finished, `n` being the depth of the stack: leave every node whose right subtree it was, and
answer the right child to visit next, or none when the whole trie has been visited. With `onPath` the path
registers follow. When an entry's bit is set and how it is popped are the model's (DESIGN CHOICE, assumption 22). -/
def unwind (onPath : Bool) : Nat → State → Host.Outcome (Option Nat × State) Fault Refusal
  | 0, s => .next (none, { s with sp := 0 })
  | n + 1, s =>
    match s.stk[n]? with
    | none => .fault .tableIndex
    | some e =>
      if e.leftDone then
        unwind onPath n { (if onPath then s.pathUp else s) with sp := n }
      else
        match s.readNode e.node with
        | none => .fault .tableIndex
        | some nd =>
          .next (some nd.right,
            { (if onPath then s.pathAcross else s) with
              stk := s.stk.setIfInBounds n ⟨e.node, true⟩
              sp := n + 1 })

/-- A depth-first visit, left subtree first, from node `i`: `atLeaf` at each leaf, `atInternal` at each internal node
before its subtrees (R151, R160, R161). The first argument bounds the number of nodes visited. -/
def traverse (onPath : Bool) (atLeaf : Symbol → State → Result) (atInternal : State → Result) :
    Nat → Nat → State → Result
  | 0, _, _ => .fault .unendingLoop
  | fuel + 1, i, s =>
    match s.readNode i with
    | none => .fault .tableIndex
    | some nd =>
      if nd.leaf then
        andThen (atLeaf nd.sym s) fun s =>
          andThen (unwind onPath s.sp s) fun (next, s) =>
            match next with
            | none => .next s
            | some j => traverse onPath atLeaf atInternal fuel j s
      else
        andThen (atInternal s) fun s =>
          match s.pushStk i with
          | none => .fault .stackOverflow
          | some s => traverse onPath atLeaf atInternal fuel nd.left (if onPath then s.pathDown else s)

end Sys2Proof.Machine
end

