-- ==== Sys2Proof/Machine/Builder.lean ====
section
/-! DEFINITION. The TrieBuilder phase: spec/41_trie_builder.md R130 to R141. -/

namespace Sys2Proof.Machine

/-- A new node at the next free index, live (R131, R132). -/
def State.addNode (s : State) (n : Node) : State :=
  { (s.writeNode s.nodeCount n).writeLive s.nodeCount true with nodeCount := s.nodeCount + 1 }

/-- A leaf for one Symbol with its count, if the count is positive (R131). -/
def State.placeLeaf (s : State) (c : Nat × Nat) : State :=
  if c.1 > 0 then s.addNode (leafNode (BitVec.ofNat 9 c.2) c.1) else s

/-- The store emptied: no node in use and none live. R139 sets `NODE_COUNT` to 0; that the `LIVE` bits of an earlier
command go with it is what R28 asks, by which only the root's is set in the end (DEDUCED, assumption 10). -/
def State.emptyStore (s : State) : State := { s with nodeCount := 0, live := Vector.replicate 513 false }

/-- The leaves, in ascending order of Symbol, from index 0 (R131). -/
def State.placeLeaves (s : State) : State := s.freq.toList.zipIdx.foldl State.placeLeaf s.emptyStore

/-- Whether node `i` comes before node `j` in the order of `(weight, index)` (R134; D3, assumption 6). -/
def State.before (s : State) (i j : Nat) : Bool := s.weight i < s.weight j || (s.weight i = s.weight j && i < j)

/-- The lesser of the best so far and a node, among live nodes (R133, R134). -/
def State.better (s : State) (best : Option Nat) (i : Nat) : Option Nat :=
  if s.readLive i then
    match best with
    | none => some i
    | some b => if s.before i b then some i else some b
  else best

/-- The live node in use that is least in the order of R134, none when no node is live. -/
def State.minLive (s : State) : Option Nat := (List.range s.nodeCount).foldl s.better none

/-- `ExtractMin()` (R133): defined when at least one node is live, and called only then. -/
def extractMin (s : State) : Nat × State :=
  let i := s.minLive.getD 0
  (i, s.writeLive i false)

/-- One merge: the first extracted becomes the left child, the second the right child, and the weight is the exact
sum of theirs (R132, R135, R136; D4, assumption 6). -/
def mergeOnce (s : State) : State :=
  let (a, s) := extractMin s
  let (b, s) := extractMin s
  s.addNode (internalNode (s.weight a + s.weight b) a b)

/-- The merge loop: it runs while more than one node is live (R132). The first argument is at least the number of
merges. -/
def mergeLoop : Nat → State → State
  | 0, s => s
  | fuel + 1, s => if s.liveCount > 1 then mergeLoop fuel (mergeOnce s) else s

/-- The degenerate case: the sole leaf is wrapped under an internal root beside the phantom leaf (R137; D5,
assumption 6). -/
def State.wrapSole (s : State) : State :=
  let s := s.writeNode 1 (leafNode 0 0)
  let s := s.writeNode 2 (internalNode (s.weight 0 + 0) 0 1)
  { ((s.writeLive 0 false).writeLive 1 false).writeLive 2 true with nodeCount := 3 }

/-- `ROOT <- NODE_COUNT - 1`, `PHASE <- C_CODES` (R139). -/
def State.finishBuild (s : State) : State := { s with root := s.nodeCount - 1, phase := 3 }

/-- `C_BUILD` (R139). -/
def execCBuild (s : State) : Result :=
  let s := s.placeLeaves
  if s.nodeCount = 0 then raiseErr .construction s
  else if s.nodeCount = 1 then .next s.wrapSole.finishBuild
  else .next (mergeLoop s.nodeCount s).finishBuild

end Sys2Proof.Machine
end

