-- ==== Sys2Proof/Machine/Codes.lean ====
section
/-! DEFINITION. The CodeTable phase: spec/42_code_table.md R150 to R156. -/

namespace Sys2Proof.Machine

/-- At a leaf: its Symbol's code is the path (R151). A store whose leaf holds no Symbol is no trie of this block. -/
def bindCode (sym : Symbol) (s : State) : Result :=
  if sym.toNat < Config.nSym then .next (s.writeCode sym.toNat ⟨s.plen, s.path⟩) else .fault .tableIndex

/-- `C_CODES` (R151), run with `STK`, `PATH` and `PLEN`. -/
def execCCodes (s : State) : Result :=
  let s := { s with code := Vector.replicate 257 ⟨0, 0⟩, sp := 0, path := 0, plen := 0 }
  andThen (traverse true bindCode .next Config.nodeCap s.root s) fun s => .next (s.setPhase 4)

end Sys2Proof.Machine
end

