-- ==== Sys2Proof/Machine/Commands.lean ====
section
/-! DEFINITION. The two host commands: spec/44_compressor.md R180, spec/45_decompressor.md R200. -/

namespace Sys2Proof.Machine

/-- COMPRESS: the acceptance, `PHASE <- C_FREQ`; ignored while BUSY (R180). -/
def execCompress (s : State) : Result := startCommand 0x01 1 s

/-- DECOMPRESS: the acceptance, `PHASE <- D_MAGIC`; ignored while BUSY, and no `InRewind` (R200). -/
def execDecompress (s : State) : Result := startCommand 0x02 9 s

end Sys2Proof.Machine
end

