-- ==== Sys2Proof/Machine/Compressor.lean ====
section
/-! DEFINITION. The output phases of COMPRESS: spec/44_compressor.md R182 to R186. -/

namespace Sys2Proof.Machine

/-- `C_MAGIC` (R182). -/
def execCMagic (s : State) : Result :=
  andThen (outBits 32 Config.magic.toNat s) fun s => .next (s.setPhase 5)

/-- The loop of R183 over the second scan: a byte with no code raises (R184). -/
def payloadLoop : Nat → State → Result
  | 0, _ => .fault .unendingLoop
  | fuel + 1, s =>
    andThen (inBits 8 s) fun (v, s) =>
      match v with
      | none => .next (s.setPhase 7)
      | some v =>
        let e := s.readCode v
        if e.len = 0 then raiseErr .noCode s
        else andThen (outBits e.len e.val s) fun s => payloadLoop fuel s

/-- `C_PAYLOAD` (R183). -/
def execCPayload (s : State) : Result := andThen (inRewind s) fun s => payloadLoop s.inputFuel s

/-- `C_TERM` (R185). -/
def execCTerm (s : State) : Result :=
  let e := s.readCode Config.eosSym.toNat
  andThen (outBits e.len e.val s) fun s => .next (s.setPhase 8)

/-- `C_CLOSE` (R186). -/
def execCClose (s : State) : Result := endCommand s

end Sys2Proof.Machine
end

