-- ==== Sys2Proof/Machine/Decompressor.lean ====
section
/-! DEFINITION. The phases of DECOMPRESS other than `D_HEADER`: spec/45_decompressor.md R202 to R206, with the tokens
they consume (spec/30_encoding.md R96, R102 to R104). -/

namespace Sys2Proof.Machine

/-- MAGIC: what `D_MAGIC` does with the field once its 32 bits have been read (R96, R202). -/
def execMagic (m : BitVec 32) (s : State) : Result :=
  if m = Config.magic then .next (s.setPhase 10) else raiseErr .badMagic s

/-- `D_MAGIC` (R202). -/
def execDMagic (s : State) : Result :=
  andThen (inBits 32 s) fun (m, s) =>
    match m with
    | none => raiseErr .badMagic s
    | some m => execMagic (BitVec.ofNat 32 m) s

/-- One round of the walk, its bit having been read: descend; at the sentinel's leaf the phase is over, at a byte's
leaf the byte is written and the cursor goes back to the root (R203, R204). -/
def walkBit (b : Bool) (s : State) : Round :=
  match s.readNode s.cur with
  | none => .fault .tableIndex
  | some nd =>
    let s := { s with cur := if b then nd.right else nd.left }
    match s.readNode s.cur with
    | none => .fault .tableIndex
    | some nd =>
      if nd.leaf then
        if nd.sym = Config.eosSym then .next (false, s.setPhase 12)
        else andThen (outBits 8 nd.sym.toNat s) fun s => .next (true, { s with cur := s.root })
      else .next (true, s)

/-- The loop of R203. -/
def walkLoop : Nat → State → Result
  | 0, _ => .fault .unendingLoop
  | fuel + 1, s =>
    andThen (inBits 1 s) fun (b, s) =>
      match b with
      | none => raiseErr .noEos s
      | some b => andThen (walkBit (b ≠ 0) s) fun (more, s) => if more then walkLoop fuel s else .next s

/-- `D_WALK` (R203). -/
def execDWalk (s : State) : Result := walkLoop s.inputFuel { s with cur := s.root }

/-- `D_CLOSE` (R206). -/
def execDClose (s : State) : Result := endCommand s

/-- The rounds of the walk on bits that have been read, up to the sentinel's leaf (R203, R80). -/
def walkBits : Bits → State → Result
  | [], s => .next s
  | b :: bs, s => andThen (walkBit b s) fun (more, s) => if more then walkBits bs s else .next s

/-- CODEWORD: what `D_WALK` does with the bits of a codeword once they have been read (R102, R203). -/
def execCodeword (c : Bits) (s : State) : Result := walkBits c s

/-- TERMINATOR: what `D_WALK` does with the bits of the sentinel's codeword once they have been read (R103, R203). -/
def execTerminator (c : Bits) (s : State) : Result := walkBits c s

/-- PAD: nothing. The bits after the terminator are never read and cannot influence the output or the status
(R80, R104). -/
def execPad (_p : Bits) (s : State) : Result := .next s

end Sys2Proof.Machine
end

