-- ==== Sys2Proof/Machine/Frequency.lean ====
section
/-! DEFINITION. The FrequencyTable phase: spec/40_frequency_table.md R120 to R125. -/

namespace Sys2Proof.Machine

/-- One input byte counted: `N_IN <- N_IN + 1`, `FREQ[v] <- FREQ[v] + 1` (R121). -/
def State.countByte (s : State) (v : Nat) : State :=
  { s with nIn := s.nIn + 1, freq := s.freq.setIfInBounds v (s.readFreq v + 1) }

/-- The loop of R121 over the input bytes, `maxIn` being `MAX_IN`: the overflow check comes before the increment
(R123). At the end of the input the sentinel's count is set to exactly 1 (R122). -/
def countLoop (maxIn : Nat) : Nat → State → Result
  | 0, _ => .fault .unendingLoop
  | fuel + 1, s =>
    andThen (inBits 8 s) fun (v, s) =>
      match v with
      | none => .next ((s.writeFreq Config.eosSym.toNat 1).setPhase 2)
      | some v => if s.nIn = maxIn then raiseErr .countOverflow s else countLoop maxIn fuel (s.countByte v)

/-- `C_FREQ` (R121). -/
def execCFreq (s : State) : Result :=
  andThen (inRewind { s with freq := Vector.replicate 257 0, nIn := 0 }) fun s =>
    countLoop Config.maxIn s.inputFuel s

end Sys2Proof.Machine
end

