-- ==== Sys2Proof/Machine/Header.lean ====
section
/-! DEFINITION. The HeaderCodec phases: spec/43_header_codec.md R160 to R173, with the two tokens of the tree header
(spec/30_encoding.md R97, R98) as the decoder consumes them. -/

namespace Sys2Proof.Machine

/-- A leaf's token on OUT (R98, R161). -/
def emitLeaf (sym : Symbol) (s : State) : Result := andThen (outBits 1 1 s) fun s => outBits 9 sym.toNat s

/-- An internal node's token on OUT (R97, R161). -/
def emitInternal (s : State) : Result := outBits 1 0 s

/-- `C_HEADER` (R161), run with `STK`. -/
def execCHeader (s : State) : Result :=
  andThen (traverse false emitLeaf emitInternal Config.nodeCap s.root { s with sp := 0 }) fun s =>
    .next (s.setPhase 6)

/-! ## Deserialize -/

/-- A subtree with root `i` has been read, `n` being the depth of the stack: it completes every node on top of the
stack whose left subtree was already finished, and such a node is written, its left child being the node after it
in preorder (R164). The stack's entries are the model's (DESIGN CHOICE, assumption 22). The answer is the root when the
whole tree has been read, none when more tokens follow. -/
def closeSubtrees : Nat → Nat → State → Host.Outcome (Option Nat × State) Fault Refusal
  | 0, i, s => .next (some i, { s with sp := 0 })
  | n + 1, i, s =>
    match s.stk[n]? with
    | none => .fault .tableIndex
    | some e =>
      if e.leftDone then
        closeSubtrees n e.node { s.writeNode e.node (internalNode 0 (e.node + 1) i) with sp := n }
      else
        .next (none, { s with stk := s.stk.setIfInBounds n ⟨e.node, true⟩, sp := n + 1 })

/-- `ROOT <- ReadTree()` and the check of the root (R164, R168). -/
def finishHeader (root : Nat) (s : State) : Result :=
  match s.readNode root with
  | none => .fault .tableIndex
  | some nd =>
    let s := { s with root }
    if nd.leaf then raiseErr .degenerateTree s else .next (s.setPhase 11)

/-- `i <- NODE_COUNT`, `NODE_COUNT <- NODE_COUNT + 1` (R164). -/
def State.takeIndex (s : State) : State := { s with nodeCount := s.nodeCount + 1 }

/-- An internal-node token whose bit has been read: the node gets its index and waits on the stack for its two
subtrees (R164). A 258th waiting node is not stacked: 257 waiting nodes already need more than 513 nodes, so the
header can only end in an error, which needs no stack entry (DEDUCED, assumption 9). -/
def internalToken (s : State) : Round :=
  if Config.nodeCap ≤ s.nodeCount then raiseRound .treeOverflow s
  else .next (true, ((s.pushStk s.nodeCount).getD s).takeIndex)

/-- A leaf token whose ten bits have been read (R164, R166, R169). -/
def leafToken (sym : Symbol) (s : State) : Round :=
  if Config.nodeCap ≤ s.nodeCount then raiseRound .treeOverflow s
  else if Config.eosSym < sym then raiseRound .badSymbol s.takeIndex
  else
    let i := s.nodeCount
    andThen (closeSubtrees s.sp i (s.takeIndex.writeNode i (leafNode sym 0))) fun (done, s) =>
      match done with
      | none => .next (true, s)
      | some root => andThen (finishHeader root s) fun s => .next (false, s)

/-- The rounds of `ReadTree`, one token a round, in the order of R164 and R172: end of stream before capacity,
capacity before the symbol field is read, end of stream before the symbol's range. -/
def headerLoop : Nat → State → Result
  | 0, _ => .fault .unendingLoop
  | fuel + 1, s =>
    andThen (inBits 1 s) fun (b, s) =>
      match b with
      | none => raiseErr .truncHeader s
      | some b =>
        if Config.nodeCap ≤ s.nodeCount then raiseErr .treeOverflow s
        else if b = 0 then
          andThen (internalToken s) fun (more, s) => if more then headerLoop fuel s else .next s
        else
          andThen (inBits 9 s) fun (v, s) =>
            match v with
            | none => raiseErr .truncHeader s.takeIndex
            | some v =>
              andThen (leafToken (BitVec.ofNat 9 v) s) fun (more, s) => if more then headerLoop fuel s else .next s

/-- `D_HEADER` (R164), run with `STK`. -/
def execDHeader (s : State) : Result := headerLoop s.inputFuel { s with nodeCount := 0, sp := 0 }

/-- NODE_INTERNAL: what `ReadTree` does with the token once its bit has been read (R97, R164). -/
def execNodeInternal (s : State) : Result := andThen (internalToken s) fun (_, s) => .next s

/-- NODE_LEAF: what `ReadTree` does with the token once its ten bits have been read (R98, R164). -/
def execNodeLeaf (sym : Symbol) (s : State) : Result := andThen (leafToken sym s) fun (_, s) => .next s

end Sys2Proof.Machine
end

