-- ==== Sys2Proof/Machine/Dispatch.lean ====
section
/-! DEFINITION. One arm per instruction (spec/00_scope.md R16). -/

namespace Sys2Proof.Machine

def exec (i : Instr) (s : State) : Host.Outcome State Fault Refusal :=
  match i with
  | .compress => Sys2Proof.Machine.execCompress s
  | .decompress => Sys2Proof.Machine.execDecompress s
  | .cFreq => Sys2Proof.Machine.execCFreq s
  | .cBuild => Sys2Proof.Machine.execCBuild s
  | .cCodes => Sys2Proof.Machine.execCCodes s
  | .cMagic => Sys2Proof.Machine.execCMagic s
  | .cHeader => Sys2Proof.Machine.execCHeader s
  | .cPayload => Sys2Proof.Machine.execCPayload s
  | .cTerm => Sys2Proof.Machine.execCTerm s
  | .cClose => Sys2Proof.Machine.execCClose s
  | .dMagic => Sys2Proof.Machine.execDMagic s
  | .dHeader => Sys2Proof.Machine.execDHeader s
  | .dWalk => Sys2Proof.Machine.execDWalk s
  | .dClose => Sys2Proof.Machine.execDClose s
  | .magic m => Sys2Proof.Machine.execMagic m s
  | .nodeInternal => Sys2Proof.Machine.execNodeInternal s
  | .nodeLeaf sym => Sys2Proof.Machine.execNodeLeaf sym s
  | .codeword c => Sys2Proof.Machine.execCodeword c s
  | .terminator c => Sys2Proof.Machine.execTerminator c s
  | .pad p => Sys2Proof.Machine.execPad p s

end Sys2Proof.Machine
end

