-- ==== Sys2Proof/Machine/Fetch.lean ====
section
/-! DEFINITION. What the step is about to do: the host's next event (spec/60_exceptions.md R246), and for the core the phase
that `PHASE` names (spec/10_state.md R24). -/

namespace Sys2Proof.Machine

/-- The core's own step: while BUSY the phase that `PHASE` names; otherwise nothing, for the core executes nothing
until a command is written (R24, R244, R260). -/
def fetchCore (s : State) : Fetched :=
  if s.runState = .busy then
    match decodePhase s.phase with
    | .ok i => .instr i s
    | .error _ => .settled (.fault .noSuchPhase)
  else .settled (.next s)

/-- A host write of one byte (R73): `CMD` takes a command (R21, R92 to R94), writes to `STATUS` and `ERR` are
ignored (R22, R23), and there is no other register (U21). -/
def fetchWrite (off : Nat) (v : Byte) (s : State) : Fetched :=
  match hostReg off with
  | some .cmd =>
    match decodeCmd v with
    | .ok i => .instr i s
    | .error _ => if s.runState = .busy then .settled (.next s) else .settled (.next (s.badCommand v))
  | some .status => .settled (.next s)
  | some .err => .settled (.next s)
  | none => .settled (.refused .hostOffset)

/-- A host read of one byte: no side effect (R73); the value is `State.hostRead`. -/
def fetchRead (off : Nat) (s : State) : Fetched :=
  match hostReg off with
  | some _ => .settled (.next s)
  | none => .settled (.refused .hostOffset)

/-- Fresh streams on both ports (R246, R262). -/
def State.attach (s : State) (data : Bits) (pos : Nat) (canRewind : Bool) : State :=
  { s with
    inp := some { data, pos, canRewind, log := [] }
    out := some { bits := [], closed := false, abandoned := false } }

/-- The host attaches streams before a command, never while one runs (R246, U17). -/
def fetchAttach (data : Bits) (pos : Nat) (canRewind : Bool) (s : State) : Fetched :=
  if s.runState = .busy then .settled (.refused .streamTouchedWhileBusy)
  else .settled (.next (s.attach data pos canRewind))

/-- The content of the input stream is another from now on (R264). -/
def State.changeInput (s : State) (data : Bits) : State := { s with inp := s.inp.map fun i => { i with data } }

/-- Reset inside a phase; when no phase is running it is a reset like any other (R260, R261). -/
def fetchResetDuring (k : Nat) (s : State) : Fetched :=
  match fetchCore s with
  | .instr i s => .cut k i s
  | .cut _ _ s => .settled (.next s.doReset)
  | .settled _ => .settled (.next s.doReset)

/-- The host's next event if there is one, the core's next phase if there is none. -/
def fetch (s : State) : Fetched :=
  match s.host with
  | [] => fetchCore s
  | .run :: h => fetchCore { s with host := h }
  | .attach d p r :: h => fetchAttach d p r { s with host := h }
  | .inputChanges d :: h => .settled (.next (State.changeInput { s with host := h } d))
  | .write off v :: h => fetchWrite off v { s with host := h }
  | .read off :: h => fetchRead off { s with host := h }
  | .reset :: h => .settled (.next (State.doReset { s with host := h }))
  | .resetDuring k :: h => fetchResetDuring k { s with host := h }

/-- The core put at the start of a phase: BUSY, `PHASE` at its code, the host waiting, and streams on the ports if
there are none, which is the host's duty before any command (R262; assumption 18). -/
def State.placePhase (s : State) (p : BitVec 4) : State :=
  { s with
    runState := .busy
    phase := p
    host := .run :: s.host
    inp := some (s.inp.getD { data := [], pos := 0, canRewind := true, log := [] })
    out := some (s.out.getD { bits := [], closed := false, abandoned := false }) }

/-- The token's bits as the next that IN delivers, the core at the start of the phase that reads them. -/
def State.placeToken (s : State) (p : BitVec 4) (b : Bits) : State :=
  { s.placePhase p with inp := some { data := b, pos := 0, canRewind := true, log := [] } }

/-- An instruction where the step finds it next (assumption 18). -/
def State.placeInstr (s : State) (i : Instr) : State :=
  match i with
  | .compress => { s with host := .write 0x0 0x01 :: s.host }
  | .decompress => { s with host := .write 0x0 0x02 :: s.host }
  | .cFreq | .cBuild | .cCodes | .cMagic | .cHeader | .cPayload | .cTerm | .cClose => s.placePhase (phaseCode i)
  | .dMagic | .dHeader | .dWalk | .dClose => s.placePhase (phaseCode i)
  | .magic _ => s.placeToken 9 (encode i)
  | .nodeInternal | .nodeLeaf _ => s.placeToken 10 (encode i)
  | .codeword _ | .terminator _ | .pad _ => s.placeToken 11 (encode i)

end Sys2Proof.Machine
end

