-- ==== Sys2Proof/Machine/Step.lean ====
section
/-! DEFINITION. One step: a host event, or one phase of the running command (spec/00_scope.md R16, R17). -/

namespace Sys2Proof.Machine

/-- One step of the block: what `fetch` reads is run. -/
def step (s : State) : Host.Outcome State Fault Refusal :=
  match fetch s with
  | .instr i t => exec i t
  | .cut k i t => .next (t.abandon k (exec i t))
  | .settled o => o

/-- The state with a row's word stored where the step fetches next (assumption 18). -/
def State.withFetchWord (s : State) (nbits w : Nat) : State :=
  match decodeTableWord nbits w with
  | some i => s.placeInstr i
  | none => { s with host := .write 0x0 (BitVec.ofNat 8 w) :: s.host }

end Sys2Proof.Machine
end

