-- ==== Sys2Proof/Machine/Reference.lean ====
section
/-! DEFINITION. What statements compare the machine with: the trie a node store holds (spec/10_state.md R32), and the
spec's functions on tries and bit strings (spec/41_trie_builder.md R139, spec/43_header_codec.md R164, R170,
spec/45_decompressor.md R207). -/

namespace Sys2Proof

/-- Number of leaves (R162). -/
def Trie.leaves : Trie → Nat
  | .leaf _ _ => 1
  | .internal _ l r => l.leaves + r.leaves

/-- Number of internal nodes (R162). -/
def Trie.internals : Trie → Nat
  | .leaf _ _ => 0
  | .internal _ l r => l.internals + r.internals + 1

/-- Number of nodes. -/
def Trie.size (t : Trie) : Nat := t.leaves + t.internals

/-- Length of the longest path (R155). -/
def Trie.depth : Trie → Nat
  | .leaf _ _ => 0
  | .internal _ l r => max l.depth r.depth + 1

/-- The weight of the root (R31). -/
def Trie.weight : Trie → Nat
  | .leaf _ w => w
  | .internal w _ _ => w

/-- Every internal node weighs the sum of its children (R31, R136). -/
def Trie.weightsAdd : Trie → Bool
  | .leaf _ _ => true
  | .internal w l r => w = l.weight + r.weight && l.weightsAdd && r.weightsAdd

/-- The same trie with every weight 0, as the decoder holds it (R169, R170). -/
def Trie.strip : Trie → Trie
  | .leaf s _ => .leaf s 0
  | .internal _ l r => .internal 0 l.strip r.strip

/-- The root is internal (R140, R168). -/
def Trie.isInternal : Trie → Bool
  | .leaf _ _ => false
  | .internal _ _ _ => true

/-- The leaves in preorder, each with its weight. -/
def Trie.leafList : Trie → List (Symbol × Nat)
  | .leaf s w => [(s, w)]
  | .internal _ l r => l.leafList ++ r.leafList

/-- The Symbols of the leaves in preorder. -/
def Trie.symbols (t : Trie) : List Symbol := t.leafList.map Prod.fst

/-- The leaves in preorder, each with the path to it, 0 left and 1 right (R150, R151). -/
def Trie.paths : Trie → List (Symbol × Bits)
  | .leaf s _ => [(s, [])]
  | .internal _ l r =>
    l.paths.map (fun p => (p.1, false :: p.2)) ++ r.paths.map (fun p => (p.1, true :: p.2))

/-- `Code(s)`: the path to the leaf of `s`, empty where the trie has no such leaf (R187). -/
def Trie.code (t : Trie) (s : Symbol) : Bits := ((t.paths.find? fun p => p.1 = s).map Prod.snd).getD []

/-- The subtree one step down. -/
def Trie.child : Trie → Bool → Trie
  | .leaf s w, _ => .leaf s w
  | .internal _ l _, false => l
  | .internal _ _ r, true => r

/-- The walk of R207 (3) with the trie `t` from the node `cur`: the bytes whose codewords are complete, and the bits
after the terminator, none where the bits end before one (R203, R205). -/
def walk (t : Trie) : Trie → Bits → List Byte × Option Bits
  | _, [] => ([], none)
  | cur, b :: bs =>
    match cur.child b with
    | .leaf s _ =>
      if s = Config.eosSym then ([], some bs)
      else
        let (out, rest) := walk t t bs
        (BitVec.ofNat 8 s.toNat :: out, rest)
    | .internal w l r => walk t (.internal w l r) bs

/-- The payload and terminator of the bytes `S` under the trie `t` (R187). -/
def payloadBits (t : Trie) (S : List Byte) : Bits :=
  S.flatMap (fun b => t.code (b.zeroExtend 9)) ++ t.code Config.eosSym

/-- The first trie of least weight in a forest kept in order of creation, and the others in that order (R133, R134). -/
def takeLeast : List Trie → Option (Trie × List Trie)
  | [] => none
  | t :: ts =>
    match takeLeast ts with
    | none => some (t, [])
    | some (m, rest) => if t.weight ≤ m.weight then some (t, ts) else some (m, t :: rest)

/-- The two least tries of the forest joined, the first on the left, and put at the end, until one is left (R132, R135,
R136). The first argument bounds the number of merges. -/
def mergeForest : Nat → List Trie → Option Trie
  | _, [t] => some t
  | 0, _ => none
  | fuel + 1, ts =>
    match takeLeast ts with
    | none => none
    | some (a, ts) =>
      match takeLeast ts with
      | none => none
      | some (b, ts) => mergeForest fuel (ts ++ [.internal (a.weight + b.weight) a b])

/-- The trie of the leaves `L`, in the order in which they are created: R139 on tries instead of node indices (R32); the
sole leaf is wrapped beside the phantom leaf (R137). -/
def huffman (L : List (Symbol × Nat)) : Option Trie :=
  match L with
  | [(s, w)] => some (.internal w (.leaf s w) (.leaf 0 0))
  | L => mergeForest L.length (L.map fun c => .leaf c.1 c.2)

namespace Machine

/-- `ReadTree` as R164 writes it, recursively: the bits, and the number of nodes so far. The first argument bounds
the recursion; one more than the number of bits is enough, for every call reads a bit. -/
def readTree : Nat → Bits → Nat → Except Err (Trie × Bits × Nat)
  | 0, _, _ => .error .truncHeader
  | _ + 1, [], _ => .error .truncHeader
  | fuel + 1, b :: bs, n =>
    if Config.nodeCap ≤ n then .error .treeOverflow
    else if b then
      match takeField 9 bs with
      | none => .error .truncHeader
      | some (v, bs) =>
        if v ≤ 256 then .ok (.leaf (BitVec.ofNat 9 v) 0, bs, n + 1) else .error .badSymbol
    else
      match readTree fuel bs (n + 1) with
      | .error e => .error e
      | .ok (l, bs, n) =>
        match readTree fuel bs n with
        | .error e => .error e
        | .ok (r, bs, n) => .ok (.internal 0 l r, bs, n)

/-- The node store after the subtree with root `i` has finished the waiting nodes `es`, the top of the stack first: each
is written with the node after it in preorder on its left and, on its right, the subtree that finished it (R164). -/
def finishNodes : List StkEntry → Nat → Vector Node 513 → Vector Node 513
  | [], _, nodes => nodes
  | e :: es, i, nodes => finishNodes es e.node (nodes.setIfInBounds e.node (internalNode 0 (e.node + 1) i))

/-- A tree header read whole, with the check of its root (R164, R168). -/
def readHeader (b : Bits) : Except Err (Trie × Bits × Nat) :=
  match readTree (b.length + 1) b 0 with
  | .error e => .error e
  | .ok (t, rest, n) => if t.isInternal then .ok (t, rest, n) else .error .degenerateTree

/-- `Tree(i)` (R32); none where following children from `i` goes deeper than the first argument or leaves the
store. -/
def treeAt : Nat → Vector Node 513 → Nat → Option Trie
  | 0, _, _ => none
  | fuel + 1, nodes, i =>
    match nodes[i]? with
    | none => none
    | some nd =>
      if nd.leaf then some (.leaf nd.sym nd.weight)
      else
        match treeAt fuel nodes nd.left, treeAt fuel nodes nd.right with
        | some l, some r => some (.internal nd.weight l r)
        | _, _ => none

/-- `Tree(ROOT)` (R32): a trie of at most 513 nodes has depth at most 256 (R173). -/
def State.trie (s : State) : Option Trie := treeAt 257 s.nodes s.root

/-- The IN transactions of reading a tree header: one bit a node, nine more a leaf, in preorder (R209). -/
def headerTx : Trie → List InTx
  | .leaf _ _ => [.bits 1, .bits 9]
  | .internal _ l r => .bits 1 :: (headerTx l ++ headerTx r)

/-- The bits IN has left (R61). -/
def State.inRest (s : State) : Bits := s.inp.elim [] fun i => i.data.drop i.pos

/-- The counts of an input: how often each byte value occurs, and 1 for the sentinel (R122, R125). -/
def countOf (S : List Byte) (v : Nat) : Nat := if v = 256 then 1 else S.count (BitVec.ofNat 8 v)

/-- The Symbols with a positive count, in ascending order, each with its count: the leaves of R131. -/
def positives (freq : Vector Nat 257) : List (Symbol × Nat) :=
  (freq.toList.zipIdx.filter fun c => 0 < c.1).map fun c => (BitVec.ofNat 9 c.2, c.1)

end Machine

end Sys2Proof
end

