-- ==== Sys2Proof/Safety.lean ====
section
/-! DEFINITION. What counts as a safe run, in the terms the statements use: the duties of the host
(spec/60_exceptions.md R246, spec/70_reset_and_hazards.md R262) and the invariants of the state. -/

namespace Sys2Proof.Machine

/-- The step did not stop. -/
def Answers (o : Host.Outcome State Fault Refusal) : Prop := ∃ t, o = .next t

/-- OUT has a stream that can be written: attached, not closed, not abandoned (R64, R262 (2)). -/
abbrev State.OutOpen (s : State) : Prop := ∃ o, s.out = some o ∧ o.closed = false ∧ o.abandoned = false

/-- IN has a stream (R262 (1)). -/
abbrev State.InAttached (s : State) : Prop := ∃ i, s.inp = some i

/-- IN has a stream that supports rewind, as COMPRESS requires (R63, R262 (1)). -/
abbrev State.InRewindable (s : State) : Prop := ∃ i, s.inp = some i ∧ i.canRewind = true

/-- Everything IN delivers from its start (R35). -/
def State.inData (s : State) : Bits := s.inp.elim [] fun i => i.data

/-- The state after an `InBits(n)` that was answered with bits (R61). -/
def State.advance (s : State) (n : Nat) : State :=
  { s with inp := s.inp.map fun i => { i with pos := i.pos + n, log := i.log ++ [.bits n] } }

/-- The state after `k` times `InBits(1)`, each answered with a bit. -/
def State.advanceBits : Nat → State → State
  | 0, s => s
  | k + 1, s => State.advanceBits k (s.advance 1)

/-- OUT with the bits `b` appended (R64). -/
def outPlus (s : State) (b : Bits) : Option OutStream := s.out.map fun o => { o with bits := o.bits ++ b }

/-- OUT with the bits `b` appended and then closed (R64, R65). -/
def outClosed (s : State) (b : Bits) : Option OutStream :=
  s.out.map fun o => { o with bits := o.bits ++ b, closed := true }

/-- The same IN stream but for where it stands and what was asked of it: the content and its kind are as before. -/
def SameInput (s t : State) : Prop :=
  s.inp.map (fun i => (i.data, i.canRewind)) = t.inp.map (fun i => (i.data, i.canRewind))

/-- The IN transactions of `t` are those of `s` and then `new` (R14 (2)). -/
def InLog (s t : State) (new : List InTx) : Prop :=
  ∃ i j, s.inp = some i ∧ t.inp = some j ∧ j.log = i.log ++ new

/-- The phase an error records, and the command it belongs to (R221). -/
def Err.place : Err → BitVec 4 × Byte
  | .none => (0, 0)
  | .badMagic => (9, 2)
  | .truncHeader => (10, 2)
  | .noEos => (11, 2)
  | .construction => (2, 1)
  | .countOverflow => (1, 1)
  | .noCode => (6, 1)
  | .badSymbol => (10, 2)
  | .treeOverflow => (10, 2)
  | .degenerateTree => (10, 2)
  | .badCmd => (0, 0)

/-- The control registers agree (R22 to R24, R220, R221): IDLE is the state of reset; BUSY has no error and a phase of
the command in `CMD`; DONE has no error and phase 0; ERROR has an error, with the phase that raises it, or phase 0
and a `CMD` that is no command. -/
def State.ControlOk (s : State) : Prop :=
  match s.runState with
  | .idle => s.cmd = 0 ∧ s.phase = 0 ∧ s.err = .none
  | .busy =>
    s.err = .none ∧
      ((s.cmd = 1 ∧ 1 ≤ s.phase.toNat ∧ s.phase.toNat ≤ 8) ∨ (s.cmd = 2 ∧ 9 ≤ s.phase.toNat ∧ s.phase.toNat ≤ 12))
  | .done => s.err = .none ∧ s.phase = 0 ∧ (s.cmd = 1 ∨ s.cmd = 2)
  | .error =>
    s.err ≠ .none ∧
      if s.err = .badCmd then s.phase = 0 ∧ s.cmd ≠ 1 ∧ s.cmd ≠ 2 else (s.phase, s.cmd) = s.err.place

/-- A node-store entry is in the range of its fields (R27). -/
def Node.InRange (n : Node) : Prop := n.sym.toNat ≤ 256 ∧ n.left < 1024 ∧ n.right < 1024

/-- The working registers are in the ranges of R25, and every node entry in the range of its fields (R27). -/
def State.InRange (s : State) : Prop :=
  s.nIn ≤ Config.maxIn ∧ s.nodeCount ≤ 513 ∧ s.root ≤ 512 ∧ s.cur ≤ 512 ∧ s.plen ≤ 256 ∧ s.sp ≤ 257 ∧
    s.path < 2 ^ s.plen ∧ ∀ n ∈ s.nodes.toList, n.InRange

/-- No counter and no weight exceeds `CNT_W` bits: all the counts together are at most `2^CNT_W - 1` (R123, R136). -/
def State.CountsFit (s : State) : Prop :=
  s.freq.toList.sum ≤ 2 ^ Config.cntW - 1 ∧ ∀ n ∈ s.nodes.toList, n.weight < 2 ^ Config.cntW

/-- Every code-table entry is a number below `2^len`, and `len` is at most 256 (R29, R155). -/
def State.CodesFit (s : State) : Prop := ∀ e ∈ s.code.toList, e.len ≤ Config.maxCodeLen ∧ e.val < 2 ^ e.len

/-- The twelve phases, which are what the core runs by itself (R24). -/
def isPhase (i : Instr) : Bool := phaseCode i ≠ 0

end Sys2Proof.Machine
end

