-- ==== Sys2Proof/Certificates/Slice0/Obligations.lean ====
section
/-! DEFINITION. The statements for the provers, from the numbered rules of spec/. -/

open Sys2Proof Sys2Proof.Machine

/-! ## The step and the decoders -/

/-- What the step fetches it runs: while BUSY the phase that `PHASE` names (R24), with the host's waiting event
consumed; on a host write to `CMD` the command the byte names (R21, R92, R93); and while no command runs and the host
does nothing, nothing (R244, R260). The host's schedule and one phase to a step are the model's (assumptions 7, 17). -/
def Obligations.StepRunsTheDecodedInstruction : Prop :=
  ∀ (s : State) (i : Instr) (h : List HostEvent) (v : Byte),
    (s.host = [] → s.runState = .busy → decodePhase s.phase = .ok i → step s = exec i s) ∧
    (s.host = .run :: h → s.runState = .busy → decodePhase s.phase = .ok i → step s = exec i { s with host := h }) ∧
    (s.host = .write 0x0 v :: h → decodeCmd v = .ok i → step s = exec i { s with host := h }) ∧
    (s.host = [] → s.runState ≠ .busy → step s = .next s)

/-- The tokens of the file header run inside their phases: `D_MAGIC` is the magic field's own operation after its read,
and a round of `ReadTree` is the token's own operation after its reads (R164, R202; what a token by itself does is the
model's reading, assumption 8). -/
def Obligations.HeaderTokensRunInTheirPhases : Prop :=
  ∀ (s : State) (j : InStream) (fuel : Nat) (rest : Bits), s.inp = some j →
    (∀ m, decodeMagic s.inRest = .ok (.magic m, rest) → exec .dMagic s = exec (.magic m) (s.advance 32)) ∧
    (s.nodeCount < 513 → decodeTree s.inRest = .ok (.nodeInternal, rest) →
      headerLoop (fuel + 1) s = andThen (exec .nodeInternal (s.advance 1)) (headerLoop fuel)) ∧
    (∀ sym, s.nodeCount < 513 → decodeTree s.inRest = .ok (.nodeLeaf sym, rest) →
      headerLoop (fuel + 1) s =
        andThen (leafToken sym ((s.advance 1).advance 9)) (fun (more, t) => if more then headerLoop fuel t else .next t) ∧
      exec (.nodeLeaf sym) ((s.advance 1).advance 9) =
        andThen (leafToken sym ((s.advance 1).advance 9)) (fun p => .next p.2))

/-- The walk consumes codewords: from the root, when the bits IN has left begin with the codeword of a byte or the
terminator, the walk is that token's own operation, and after a codeword the walk goes on (R105, R203; assumption 8). -/
def Obligations.PayloadTokensRunInTheWalk : Prop :=
  ∀ (s : State) (j : InStream) (T : Trie) (i : Instr) (rest : Bits) (fuel : Nat), s.inp = some j →
    s.trie = some T → s.cur = s.root → decodePayload T s.inRest = .ok (i, rest) →
    walkLoop (fuel + (encode i).length) s =
      andThen (exec i (State.advanceBits (encode i).length s))
        (fun t => if i = .terminator (encode i) then .next t else walkLoop fuel t)

/-- Words written out bit by bit from the encodings of R92 to R98 and the phase table of R24. -/
def Obligations.WrittenWordsDecode : Prop :=
  decode .cmd [false, false, false, false, false, false, false, true] = .ok (.compress, []) ∧
  decode .cmd [false, false, false, false, false, false, true, false] = .ok (.decompress, []) ∧
  decode .phase [false, false, false, true] = .ok (.cFreq, []) ∧
  decode .phase [true, false, true, true] = .ok (.dWalk, []) ∧
  decode .phase [true, true, false, true] = .error .reservedPhase ∧
  decode .tree [false] = .ok (.nodeInternal, []) ∧
  decode .tree [true, false, false, true, true, false, false, false, false, true] = .ok (.nodeLeaf 97, []) ∧
  decode .tree [true, true, false, false, false, false, false, false, false, true] = .error .reservedSymbol

/-- Decoding the words of a well-formed instruction gives it back, with the bits after them, for every instruction
and every operand. A codeword and the terminator are decoded with a trie in which they are the path to a leaf (R105);
the padding is whatever is left (R104). -/
def Obligations.DecodeInvertsEncode : Prop :=
  ∀ (T : Trie) (i : Instr) (x : Bits), WellFormed i = true →
    (match i with
      | .codeword c => ∃ sym, sym ≠ Config.eosSym ∧ (sym, c) ∈ T.paths
      | .terminator c => (Config.eosSym, c) ∈ T.paths
      | .pad _ => x = []
      | _ => True) →
    decode (formatOf T i) (encode i ++ x) = .ok (i, x)

/-- `Field` and `Value` (R8): bit `k` of `Field(n, v)` is bit `n-1-k` of `v`, and the two are inverse. -/
def Obligations.FieldAndValueAreInverse : Prop :=
  (∀ n v k, k < n → (field n v)[k]? = some (v.testBit (n - 1 - k))) ∧
  (∀ n v, v < 2 ^ n → (field n v).length = n ∧ value (field n v) = v) ∧
  (∀ b : Bits, field b.length (value b) = b)

/-! ## Host registers, commands, reset -/

/-- The control registers right after reset (R37, R260), and no stream is attached (R37). -/
def Obligations.ResetControlRegisters : Prop :=
  State.reset.cmd = 0 ∧ State.reset.runState = .idle ∧ State.reset.phase = 0 ∧ State.reset.err = .none ∧
  State.reset.hostRead 0x0 = some 0 ∧ State.reset.hostRead 0x4 = some 0 ∧ State.reset.hostRead 0x8 = some 0 ∧
  State.reset.inp = none ∧ State.reset.out = none

/-- What the host reads (R21, R22, R23, R73): `CMD`; `STATUS` with the number of `STATE` (R22) in 1:0, 0 in 3:2 and
`PHASE` in 7:4; `ERR` with the number of the error (R221) in 3:0 and 0 in 7:4; nothing at any other offset. -/
def Obligations.HostReadsTheThreeRegisters : Prop :=
  ∀ s : State,
    s.hostRead 0x0 = some s.cmd ∧
    (∃ b, s.hostRead 0x4 = some b ∧ b.extractLsb' 2 2 = 0 ∧ b.extractLsb' 4 4 = s.phase ∧
      b.extractLsb' 0 2 =
        match s.runState with
        | .idle => 0
        | .busy => 1
        | .done => 2
        | .error => 3) ∧
    (∃ e, s.hostRead 0x8 = some e ∧ e.extractLsb' 4 4 = 0 ∧
      e.extractLsb' 0 4 =
        match s.err with
        | .none => 0
        | .badMagic => 1
        | .truncHeader => 2
        | .noEos => 3
        | .construction => 4
        | .countOverflow => 5
        | .noCode => 6
        | .badSymbol => 7
        | .treeOverflow => 8
        | .degenerateTree => 9
        | .badCmd => 10) ∧
    (∀ off, off ≠ 0x0 → off ≠ 0x4 → off ≠ 0x8 → s.hostRead off = none)

/-- Host writes to `STATUS` and `ERR` are ignored (R22, R23), reads have no side effect (R73), and an access at any
other offset has no meaning (U21; a refusal, assumption 16). -/
def Obligations.OtherHostAccesses : Prop :=
  ∀ (s : State) (h : List HostEvent) (v : Byte) (off : Nat),
    (off = 0x4 ∨ off = 0x8 → s.host = .write off v :: h → step s = .next { s with host := h }) ∧
    (off = 0x0 ∨ off = 0x4 ∨ off = 0x8 → s.host = .read off :: h → step s = .next { s with host := h }) ∧
    (off ≠ 0x0 → off ≠ 0x4 → off ≠ 0x8 → s.host = .write off v :: h ∨ s.host = .read off :: h →
      step s = .refused .hostOffset)

/-- A write to `CMD` while BUSY, of any value, changes nothing (R21, R266). -/
def Obligations.CommandWriteWhileBusyIsIgnored : Prop :=
  ∀ (s : State) (h : List HostEvent) (v : Byte), s.runState = .busy → s.host = .write 0x0 v :: h →
    step s = .next { s with host := h }

/-- The acceptance of COMPRESS and of DECOMPRESS, from IDLE, DONE and ERROR alike, DECOMPRESS with no `InRewind`, and
nothing while BUSY (R180, R200). -/
def Obligations.CommandsAreAccepted : Prop :=
  ∀ s : State,
    (s.runState ≠ .busy →
      exec .compress s = .next { s with cmd := 0x01, err := .none, runState := .busy, phase := 1 } ∧
      exec .decompress s = .next { s with cmd := 0x02, err := .none, runState := .busy, phase := 9 }) ∧
    (s.runState = .busy → exec .compress s = .next s ∧ exec .decompress s = .next s)

/-- Every other value written to `CMD` while no command runs is an illegal command: the four registers, and no port
transaction (R94, R231). -/
def Obligations.IllegalCommandIsReported : Prop :=
  ∀ (s : State) (h : List HostEvent) (c : Byte), s.runState ≠ .busy → c ≠ 0x01 → c ≠ 0x02 →
    s.host = .write 0x0 c :: h →
    step s = .next { s with host := h, cmd := c, err := .badCmd, phase := 0, runState := .error }

/-- The reset event between two phases: the control registers take their reset values and no stream is attached any more
(R37, R260); the IN stream leaves the port as it was, the OUT stream with the bits it has and not closed (R261; the event
between phases and the record of the streams that have left the ports are the model's, assumption 13). -/
def Obligations.ResetEventRestoresControl : Prop :=
  ∀ (s : State) (h : List HostEvent), s.host = .reset :: h →
    ∃ t, step s = .next t ∧ t.cmd = 0 ∧ t.runState = .idle ∧ t.phase = 0 ∧ t.err = .none ∧ t.host = h ∧
      t.inp = none ∧ t.out = none ∧ t.detachedIn = s.inp.toList ++ s.detachedIn ∧
      (s.runState ≠ .busy → t.detachedOut = s.out.toList ++ s.detachedOut) ∧
      (s.runState = .busy →
        t.detachedOut = (s.out.map fun o => { o with abandoned := true }).toList ++ s.detachedOut)

/-- Reset inside a phase that would have written the bits `w`: no stream is attached any more (R37), and the OUT stream
has left the port with the bits it had received, the first `k` of `w`, and not closed (R261; the cut after `k` bits is
the model's form of it, assumption 14). -/
def Obligations.ResetInsideAPhaseLeavesOutputOpen : Prop :=
  ∀ (s : State) (h : List HostEvent) (k : Nat) (i : Instr) (o p : OutStream) (t : State) (w : Bits),
    s.host = .resetDuring k :: h → s.runState = .busy → decodePhase s.phase = .ok i →
    exec i { s with host := h } = .next t → s.out = some o → t.out = some p → p.bits = o.bits ++ w →
    ∃ u, step s = .next u ∧ u.cmd = 0 ∧ u.runState = .idle ∧ u.phase = 0 ∧ u.err = .none ∧ u.host = h ∧
      u.inp = none ∧ u.out = none ∧
      u.detachedOut = { o with bits := o.bits ++ w.take k, abandoned := true } :: s.detachedOut

/-- `raise E` (R234): `ERR` is written, OUT closed, `STATE` becomes ERROR, `PHASE` and everything else stay. -/
def Obligations.RaiseEndsTheCommand : Prop :=
  ∀ (e : Err) (s : State) (o : OutStream), s.out = some o → o.closed = false → o.abandoned = false →
    raiseErr e s = .next { s with err := e, runState := .error, out := some { o with closed := true } }

/-- What the host does with streams. Attached while no command runs, IN has the stream at its position and OUT a fresh,
open, empty one (R246, R262); when the input changes, IN has the new content at the position where it stood, and nothing
else changes (R264; assumptions 7, 12). The breaches that the spec gives no meaning are refused: a port with no stream
(R262), an output that was closed or abandoned (U17, R265), an input that cannot be rewound (R63), streams attached while
BUSY (U17). The names of the refusals, and where each is met, are the model's (assumption 11). -/
def Obligations.HostStreamEventsAndBreaches : Prop :=
  ∀ (s : State) (n v : Nat),
    (∀ d p r h, s.runState ≠ .busy → s.host = .attach d p r :: h →
      step s = .next { s with
        host := h, inp := some { data := d, pos := p, canRewind := r, log := [] }
        out := some { bits := [], closed := false, abandoned := false } }) ∧
    (∀ d h, s.host = .inputChanges d :: h →
      (s.inp = none → step s = .next { s with host := h }) ∧
      ∀ i, s.inp = some i → step s = .next { s with host := h, inp := some { i with data := d } }) ∧
    (s.inp = none → inBits n s = .refused .noInputStream ∧ inRewind s = .refused .noInputStream) ∧
    (s.out = none → outBits n v s = .refused .noOutputStream ∧ outClose s = .refused .noOutputStream) ∧
    (∀ o, s.out = some o → o.closed = true ∨ o.abandoned = true →
      outBits n v s = .refused .outputUsed ∧ outClose s = .refused .outputUsed) ∧
    (∀ i, s.inp = some i → i.canRewind = false → inRewind s = .refused .inputCannotRewind) ∧
    (∀ d p r h, s.runState = .busy → s.host = .attach d p r :: h → step s = .refused .streamTouchedWhileBusy)

/-! ## COMPRESS, phase by phase -/

/-- `C_FREQ` (R121, R122, R125): on an input of whole bytes, at most `MAX_IN` of them, it counts each byte value, sets
the sentinel's count to 1 and `N_IN` to the length, reads the input once from its start and goes to `C_BUILD`; nothing
else changes. -/
def Obligations.FreqCountsTheInput : Prop :=
  ∀ (s : State) (i : InStream) (S : List Byte), s.inp = some i → i.canRewind = true → i.data = unpackBytes S →
    S.length ≤ Config.maxIn →
    ∃ t, exec .cFreq s = .next t ∧ (∀ v, v ≤ 256 → t.freq[v]? = some (countOf S v)) ∧ t.nIn = S.length ∧
      t.phase = 2 ∧ SameInput s t ∧ InLog s t (.rewind :: List.replicate (S.length + 1) (.bits 8)) ∧
      { t with freq := s.freq, nIn := s.nIn, phase := s.phase, inp := s.inp, draws := s.draws } = s

/-- `C_FREQ` on an input longer than `MAX_IN` bytes raises `ERR_COUNT_OVERFLOW` with `N_IN = MAX_IN`, nothing written,
the output closed empty of new bits and IN just after the byte that was too much (R123, R226, R235). -/
def Obligations.FreqRefusesLongInput : Prop :=
  ∀ (s : State) (i : InStream) (S : List Byte), s.inp = some i → i.canRewind = true → i.data = unpackBytes S →
    Config.maxIn < S.length → s.OutOpen →
    ∃ t, exec .cFreq s = .next t ∧ t.err = .countOverflow ∧ t.runState = .error ∧ t.phase = s.phase ∧
      t.nIn = Config.maxIn ∧ t.out = outClosed s [] ∧ t.inRest = unpackBytes (S.drop (Config.maxIn + 1)) ∧
      { t with
        freq := s.freq, nIn := s.nIn, inp := s.inp, err := s.err, runState := s.runState, out := s.out } = s

/-- The leaves of the builder (R131): one per Symbol with a positive count, in ascending order of Symbol, at indices
0 to L-1, live. That no entry from `NODE_COUNT` on is live then is the model's choice, which clears `LIVE` first
(assumption 10). -/
def Obligations.LeavesAreInSymbolOrder : Prop :=
  ∀ (s : State) (k : Nat) (c : Symbol × Nat), (positives s.freq)[k]? = some c →
    s.placeLeaves.nodeCount = (positives s.freq).length ∧
    s.placeLeaves.readNode k = some (leafNode c.1 c.2) ∧ s.placeLeaves.readLive k = true ∧
    ∀ j, (positives s.freq).length ≤ j → s.placeLeaves.readLive j = false

/-- `ExtractMin` (R133, R134): the live node least in the order of weight and then index, which stops being live. -/
def Obligations.ExtractMinTakesTheLeast : Prop :=
  ∀ s : State, s.nodeCount ≤ 513 → (∃ i, i < s.nodeCount ∧ s.readLive i = true) →
    let i := (extractMin s).1
    i < s.nodeCount ∧ s.readLive i = true ∧ (extractMin s).2 = s.writeLive i false ∧
    ∀ j, j < s.nodeCount → s.readLive j = true → j ≠ i →
      s.weight i < s.weight j ∨ (s.weight i = s.weight j ∧ i < j)

/-- One merge (R132, R135, R136): the first extracted is the left child, the second the right, the weight is the sum
of theirs; one live node fewer; every other entry stays. -/
def Obligations.MergeJoinsTheTwoLeast : Prop :=
  ∀ s : State, s.nodeCount < 513 → 1 < s.liveCount →
    let a := (extractMin s).1
    let b := (extractMin (extractMin s).2).1
    a ≠ b ∧
    (mergeOnce s).readNode s.nodeCount = some (internalNode (s.weight a + s.weight b) a b) ∧
    (mergeOnce s).readLive s.nodeCount = true ∧ (mergeOnce s).readLive a = false ∧ (mergeOnce s).readLive b = false ∧
    (mergeOnce s).nodeCount = s.nodeCount + 1 ∧ (mergeOnce s).liveCount + 1 = s.liveCount ∧
    ∀ k, k ≠ s.nodeCount → (mergeOnce s).readNode k = s.readNode k

/-- `C_BUILD` with at least two positive counts (R139, R140) refines the merge of a forest of tries: the trie in the node
store is that of `huffman`, it has one leaf per Symbol with a positive count, of that weight, internal weights are the
sums, the root is internal and created last, and `LIVE[ROOT]` is the one bit set of all `LIVE` (R28, assumption 10);
nothing else changes. -/
def Obligations.BuildMakesTheTrie : Prop :=
  ∀ s : State, 2 ≤ (positives s.freq).length →
    ∃ t T, exec .cBuild s = .next t ∧ t.trie = some T ∧ huffman (positives s.freq) = some T ∧
      T.leafList.Perm (positives s.freq) ∧ T.weightsAdd = true ∧ T.isInternal = true ∧
      t.nodeCount = 2 * (positives s.freq).length - 1 ∧
      t.root = t.nodeCount - 1 ∧ t.liveCount = 1 ∧
      (∀ j, t.readLive j = true ↔ j = t.root) ∧ t.phase = 3 ∧
      { t with nodes := s.nodes, live := s.live, nodeCount := s.nodeCount, root := s.root, phase := s.phase } = s

/-- `C_BUILD` with exactly one positive count (R137): the leaf is wrapped under an internal root beside the phantom leaf
of Symbol 0 and weight 0, and the root's is the one bit set of all `LIVE` (R28, assumption 10); nothing else changes. -/
def Obligations.BuildWrapsTheSoleLeaf : Prop :=
  ∀ (s : State) (sym : Symbol) (w : Nat), positives s.freq = [(sym, w)] →
    ∃ t, exec .cBuild s = .next t ∧ t.trie = some (.internal w (.leaf sym w) (.leaf 0 0)) ∧ t.nodeCount = 3 ∧
      t.root = 2 ∧ t.readNode 0 = some (leafNode sym w) ∧ t.readNode 1 = some (leafNode 0 0) ∧ t.liveCount = 1 ∧
      (∀ j, t.readLive j = true ↔ j = 2) ∧ t.phase = 3 ∧
      { t with nodes := s.nodes, live := s.live, nodeCount := s.nodeCount, root := s.root, phase := s.phase } = s

/-- `C_BUILD` with no positive count raises `ERR_CONSTRUCTION` (R138, R225), with no node in use and none live (the latter is
the model's choice, assumption 10). -/
def Obligations.BuildNeedsACount : Prop :=
  ∀ (s : State) (o : OutStream), positives s.freq = [] → s.out = some o → o.closed = false → o.abandoned = false →
    exec .cBuild s =
      .next { s with
        nodeCount := 0, live := Vector.replicate 513 false, err := .construction, runState := .error
        out := some { o with closed := true } }

/-- `C_CODES` (R151): on a trie of at most 513 nodes with distinct Symbols, each Symbol of a leaf gets the path to it
as its code, every other Symbol has none; nothing else changes but the traversal's own registers. -/
def Obligations.CodesAreThePaths : Prop :=
  ∀ (s : State) (T : Trie), s.trie = some T → T.size ≤ 513 → T.symbols.Nodup → (∀ x ∈ T.symbols, x.toNat ≤ 256) →
    ∃ t, exec .cCodes s = .next t ∧
      (∀ sym p, (sym, p) ∈ T.paths → t.readCode sym.toNat = ⟨p.length, value p⟩) ∧
      (∀ v, v ≤ 256 → BitVec.ofNat 9 v ∉ T.symbols → t.readCode v = ⟨0, 0⟩) ∧
      t.phase = 4 ∧ t.sp = 0 ∧ t.plen = 0 ∧ t.path = 0 ∧
      { t with code := s.code, stk := s.stk, sp := s.sp, path := s.path, plen := s.plen, phase := s.phase } = s

/-- The code table is a prefix code (R152): after `C_CODES`, of two different Symbols with a code neither codeword is a
prefix of the other. -/
def Obligations.CodesArePrefixFree : Prop :=
  ∀ (s : State) (T : Trie), s.trie = some T → T.size ≤ 513 → T.symbols.Nodup → (∀ x ∈ T.symbols, x.toNat ≤ 256) →
    ∃ t, exec .cCodes s = .next t ∧ ∀ a b, a ≤ 256 → b ≤ 256 → a ≠ b → 1 ≤ (t.readCode a).len →
      1 ≤ (t.readCode b).len →
      ¬ field (t.readCode a).len (t.readCode a).val <+: field (t.readCode b).len (t.readCode b).val

/-- `C_HEADER` (R161): the tree header of the trie is appended to OUT; nothing else changes but the traversal's
stack. -/
def Obligations.HeaderIsTheTrieInPreorder : Prop :=
  ∀ (s : State) (T : Trie), s.trie = some T → T.size ≤ 513 → s.OutOpen →
    ∃ t, exec .cHeader s = .next t ∧ t.out = outPlus s (serBits T) ∧ t.phase = 6 ∧ t.sp = 0 ∧
      { t with out := s.out, stk := s.stk, sp := s.sp, phase := s.phase } = s

/-- The header size law (R162): a tree header is 1 bit per internal node and 10 per leaf, and there is one internal
node fewer than leaves; with 2 to 257 leaves, as the encoder's tries have, it is 21 to 2826 bits. -/
def Obligations.HeaderSizeLaw : Prop :=
  ∀ T : Trie, (serBits T).length = T.internals + T.leaves * 10 ∧ T.internals = T.leaves - 1 ∧
    (serBits T).length = (T.leaves - 1) + 10 * T.leaves ∧
    (2 ≤ T.leaves → T.leaves ≤ 257 → 21 ≤ (serBits T).length ∧ (serBits T).length ≤ 2826)

/-- `C_PAYLOAD` (R183): when every byte of the second scan has a code, the codewords are appended in input order, the
input is read once from its start, and nothing else changes. -/
def Obligations.PayloadIsTheCodewords : Prop :=
  ∀ (s : State) (i : InStream) (S : List Byte), s.inp = some i → i.canRewind = true → i.data = unpackBytes S →
    (∀ b ∈ S, (s.readCode b.toNat).len ≠ 0) → s.OutOpen →
    ∃ t, exec .cPayload s = .next t ∧
      t.out = outPlus s (S.flatMap fun b => field (s.readCode b.toNat).len (s.readCode b.toNat).val) ∧ t.phase = 7 ∧
      SameInput s t ∧ InLog s t (.rewind :: List.replicate (S.length + 1) (.bits 8)) ∧
      { t with out := s.out, inp := s.inp, draws := s.draws, phase := s.phase } = s

/-- A byte of the second scan that has no code raises `ERR_NO_CODE`; the codewords before it stay written, the output
is closed and IN stands just after the byte (R184, R227, R235). -/
def Obligations.UncodedByteEndsThePayload : Prop :=
  ∀ (s : State) (i : InStream) (S R : List Byte) (b : Byte), s.inp = some i → i.canRewind = true →
    i.data = unpackBytes (S ++ b :: R) → (∀ x ∈ S, (s.readCode x.toNat).len ≠ 0) → (s.readCode b.toNat).len = 0 →
    s.OutOpen →
    ∃ t, exec .cPayload s = .next t ∧ t.err = .noCode ∧ t.runState = .error ∧ t.phase = s.phase ∧
      t.out = outClosed s (S.flatMap fun x => field (s.readCode x.toNat).len (s.readCode x.toNat).val) ∧
      t.inRest = unpackBytes R ∧
      { t with inp := s.inp, err := s.err, runState := s.runState, out := s.out } = s

/-- `C_MAGIC` and `C_TERM` (R182, R185): the magic field, and the codeword of the sentinel, are appended to OUT, and
nothing else changes. -/
def Obligations.MagicAndTerminatorAreWritten : Prop :=
  ∀ (s : State) (o : OutStream), s.out = some o → o.closed = false → o.abandoned = false →
    exec .cMagic s =
      .next { s with out := some { o with bits := o.bits ++ field 32 Config.magic.toNat }, phase := 5 } ∧
    exec .cTerm s =
      .next { s with
        out := some { o with bits := o.bits ++ field (s.readCode 256).len (s.readCode 256).val }
        phase := 8 }

/-- `C_CLOSE` and `D_CLOSE` (R186, R206): OUT is closed, the command has ended in success. -/
def Obligations.CloseEndsInSuccess : Prop :=
  ∀ (s : State) (o : OutStream), s.out = some o → o.closed = false → o.abandoned = false →
    exec .cClose s = .next { s with out := some { o with closed := true }, phase := 0, runState := .done } ∧
    exec .dClose s = .next { s with out := some { o with closed := true }, phase := 0, runState := .done }

/-- The file (R67, R68, R69): at the close 0 to 7 bits of value 0 complete the last byte, and unpacking the file's
bytes gives the bits and the padding back; before the close at most seven bits have not been delivered (R36), every
whole byte being delivered at once, which is the model's choice (R76, assumption 23). -/
def Obligations.FileIsThePaddedBits : Prop :=
  ∀ o : OutStream,
    (o.closed = true →
      (padFor o.bits).length ≤ 7 ∧ (∀ b ∈ padFor o.bits, b = false) ∧ (o.bits ++ padFor o.bits).length % 8 = 0 ∧
      unpackBytes o.file = o.bits ++ padFor o.bits ∧ o.pending = []) ∧
    (o.closed = false → unpackBytes o.file ++ o.pending = o.bits ∧ o.pending.length ≤ 7)

/-! ## DECOMPRESS, phase by phase -/

/-- `D_MAGIC` with the expected constant goes on to `D_HEADER` with 32 bits consumed (R202). -/
def Obligations.MagicIsAccepted : Prop :=
  ∀ (s : State) (rest : Bits) (i : InStream), s.inp = some i → s.inRest = field 32 Config.magic.toNat ++ rest →
    exec .dMagic s = .next { s.advance 32 with phase := 10 } ∧ (s.advance 32).inRest = rest

/-- `D_MAGIC` on fewer than 32 bits, or on 32 bits that differ from the constant, raises `ERR_BAD_MAGIC` with no bit
written and the output closed (R202, R212, R222). -/
def Obligations.BadMagicIsRejected : Prop :=
  ∀ (s : State) (i : InStream), s.inp = some i → s.OutOpen →
    s.inRest.length < 32 ∨ s.inRest.take 32 ≠ field 32 Config.magic.toNat →
    ∃ t, exec .dMagic s = .next t ∧ t.err = .badMagic ∧ t.runState = .error ∧ t.phase = s.phase ∧
      t.out = outClosed s [] ∧
      { t with err := s.err, runState := s.runState, out := s.out, inp := s.inp, draws := s.draws } = s

/-- `D_HEADER` refines the recursive `ReadTree` of R164, on every bit string: the same tree, node count, bits left and IN
transactions, or the same error, in the order of checks of R172, with the output closed and no bit written. -/
def Obligations.HeaderPhaseRefinesReadTree : Prop :=
  ∀ (s : State) (i : InStream), s.inp = some i → s.OutOpen →
    match readHeader s.inRest with
    | .ok (T, rest, n) =>
      ∃ t, exec .dHeader s = .next t ∧ t.trie = some T ∧ t.nodeCount = n ∧ t.root = 0 ∧ t.sp = 0 ∧ t.phase = 11 ∧
        t.inRest = rest ∧ SameInput s t ∧ InLog s t (headerTx T) ∧
        { t with
          nodes := s.nodes, nodeCount := s.nodeCount, root := s.root, stk := s.stk, sp := s.sp, inp := s.inp
          phase := s.phase } = s
    | .error e =>
      ∃ t, exec .dHeader s = .next t ∧ t.err = e ∧ t.runState = .error ∧ t.phase = s.phase ∧ t.out = outClosed s [] ∧
        { t with
          nodes := s.nodes, nodeCount := s.nodeCount, root := s.root, stk := s.stk, sp := s.sp, inp := s.inp
          draws := s.draws, err := s.err, runState := s.runState, out := s.out } = s

/-- `D_HEADER` inverts the tree header (R170): on `SerBits(T) ++ x` it consumes exactly `SerBits(T)` and holds `T` with
every weight 0. -/
def Obligations.HeaderPhaseInvertsSerBits : Prop :=
  ∀ (s : State) (i : InStream) (T : Trie) (x : Bits), s.inp = some i → s.inRest = serBits T ++ x →
    (∀ y ∈ T.symbols, y.toNat ≤ 256) → T.isInternal = true → T.size ≤ 513 →
    ∃ t, exec .dHeader s = .next t ∧ t.trie = some T.strip ∧ t.nodeCount = T.size ∧ t.phase = 11 ∧ t.inRest = x

/-- `D_WALK` when the payload ends in a terminator (R203, R80): the decoded bytes are appended to OUT, the bits after the
terminator are not read, and nothing else changes but the cursor. -/
def Obligations.WalkDecodesThePayload : Prop :=
  ∀ (s : State) (i : InStream) (T : Trie) (bytes : List Byte) (rest : Bits), s.inp = some i → s.trie = some T →
    T.isInternal = true → s.OutOpen → walk T T s.inRest = (bytes, some rest) →
    ∃ t, exec .dWalk s = .next t ∧ t.out = outPlus s (unpackBytes bytes) ∧ t.inRest = rest ∧ t.phase = 12 ∧
      SameInput s t ∧ InLog s t (List.replicate (s.inRest.length - rest.length) (.bits 1)) ∧
      { t with cur := s.cur, out := s.out, inp := s.inp, phase := s.phase } = s

/-- `D_WALK` when the input ends before a terminator (R205, R213): `ERR_NO_EOS`, the bytes whose codewords were
complete stay written, a partial codeword writes nothing, the output is closed. -/
def Obligations.TruncatedPayloadIsReported : Prop :=
  ∀ (s : State) (i : InStream) (T : Trie) (bytes : List Byte), s.inp = some i → s.trie = some T →
    T.isInternal = true → s.OutOpen → walk T T s.inRest = (bytes, none) →
    ∃ t, exec .dWalk s = .next t ∧ t.err = .noEos ∧ t.runState = .error ∧ t.phase = s.phase ∧
      t.out = outClosed s (unpackBytes bytes) ∧
      { t with
        cur := s.cur, inp := s.inp, draws := s.draws, err := s.err, runState := s.runState, out := s.out } = s

/-! ## The tokens -/

/-- The magic field's operation (R96, R202; assumption 8): the expected constant goes on to `D_HEADER`, any other raises. -/
def Obligations.MagicTokenIsChecked : Prop :=
  ∀ (s : State) (m : BitVec 32),
    (m = Config.magic → exec (.magic m) s = .next { s with phase := 10 }) ∧
    (m ≠ Config.magic → ∀ o, s.out = some o → o.closed = false → o.abandoned = false →
      exec (.magic m) s =
        .next { s with err := .badMagic, runState := .error, out := some { o with closed := true } })

/-- An internal-node token (R97, R164, R167; assumption 8): it takes the next index and waits on the stack for its
subtrees; with the 257 entries of the stack in use only the index is taken (the stack's entries and this case are the
model's choice, assumptions 9, 22); the token that would be node 514 raises `ERR_TREE_OVERFLOW`. -/
def Obligations.InternalTokenWaitsOnTheStack : Prop :=
  ∀ s : State,
    (s.nodeCount < 513 → s.sp < 257 →
      exec .nodeInternal s =
        .next { s with
          stk := s.stk.setIfInBounds s.sp ⟨s.nodeCount, false⟩, sp := s.sp + 1, nodeCount := s.nodeCount + 1 }) ∧
    (s.nodeCount < 513 → 257 ≤ s.sp → exec .nodeInternal s = .next { s with nodeCount := s.nodeCount + 1 }) ∧
    (513 ≤ s.nodeCount → ∀ o, s.out = some o → o.closed = false → o.abandoned = false →
      exec .nodeInternal s =
        .next { s with err := .treeOverflow, runState := .error, out := some { o with closed := true } })

/-- A leaf token (R98, R164; assumption 8): the leaf is written with weight 0 at the next index, and finishes the nodes
`es` on top of the stack, as many as there are, whose left subtrees were already finished: each is written with its two
children, the upper one being the right child of the one below it. A node below them that waits for its left subtree now
waits for its right one. Where no node is below them, the last of them is the root, and the phase goes on to `D_WALK`.
What the stack's entries hold is the model's choice (assumption 22). -/
def Obligations.LeafTokenFillsTheTree : Prop :=
  ∀ (s : State) (sym : Symbol) (es : List StkEntry), s.nodeCount < 513 → sym.toNat ≤ 256 →
    (∀ e ∈ es, e.leftDone = true) →
    (∀ (n : Nat) (e : StkEntry), s.sp = n + 1 + es.length → s.stk[n]? = some e → e.leftDone = false →
      (∀ k, k < es.length → s.stk[n + es.length - k]? = es[k]?) →
      exec (.nodeLeaf sym) s =
        .next { s with
          nodes := finishNodes es s.nodeCount (s.nodes.setIfInBounds s.nodeCount (leafNode sym 0))
          nodeCount := s.nodeCount + 1, stk := s.stk.setIfInBounds n ⟨e.node, true⟩, sp := n + 1 }) ∧
    (∀ r : StkEntry, s.sp = es.length → (∀ k, k < es.length → s.stk[es.length - 1 - k]? = es[k]?) →
      es.getLast? = some r → r.node < 513 →
      exec (.nodeLeaf sym) s =
        .next { s with
          nodes := finishNodes es s.nodeCount (s.nodes.setIfInBounds s.nodeCount (leafNode sym 0))
          nodeCount := s.nodeCount + 1, sp := 0, root := r.node, phase := 11 })

/-- A leaf token that raises (R166, R167, R168; assumption 8): a symbol field of 257 to 511; the token that would be node
514; a leaf that is the whole tree. -/
def Obligations.LeafTokenErrors : Prop :=
  ∀ (s : State) (sym : Symbol), s.OutOpen →
    (513 ≤ s.nodeCount → ∃ t, exec (.nodeLeaf sym) s = .next t ∧ t.err = .treeOverflow ∧ t.runState = .error ∧
      t.phase = s.phase ∧ t.out = outClosed s []) ∧
    (s.nodeCount < 513 → 256 < sym.toNat → ∃ t, exec (.nodeLeaf sym) s = .next t ∧ t.err = .badSymbol ∧
      t.runState = .error ∧ t.phase = s.phase ∧ t.out = outClosed s []) ∧
    (s.nodeCount < 513 → sym.toNat ≤ 256 → s.sp = 0 → ∃ t, exec (.nodeLeaf sym) s = .next t ∧
      t.err = .degenerateTree ∧ t.runState = .error ∧ t.phase = s.phase ∧ t.root = s.nodeCount ∧
      t.out = outClosed s [])

/-- A codeword (R102, R203; assumption 8): from the root, the bits of the path to a byte's leaf write that byte and leave
the cursor at the root; nothing else changes. -/
def Obligations.CodewordWritesItsByte : Prop :=
  ∀ (s : State) (T : Trie) (sym : Symbol) (c : Bits) (o : OutStream), s.trie = some T → s.cur = s.root →
    (sym, c) ∈ T.paths → c ≠ [] → sym.toNat ≤ 255 → s.out = some o → o.closed = false → o.abandoned = false →
    exec (.codeword c) s = .next { s with out := some { o with bits := o.bits ++ field 8 sym.toNat } }

/-- The terminator (R103, R203; assumption 8): from the root, the bits of the path to the sentinel's leaf end the walk
with nothing written; the cursor stands at that leaf. -/
def Obligations.TerminatorEndsTheWalk : Prop :=
  ∀ (s : State) (T : Trie) (c : Bits), s.trie = some T → s.cur = s.root → (Config.eosSym, c) ∈ T.paths → c ≠ [] →
    ∃ k n, exec (.terminator c) s = .next { s with cur := k, phase := 12 } ∧ s.readNode k = some n ∧ n.leaf = true ∧
      n.sym = Config.eosSym

/-- The padding has no effect (R80, R104; assumption 8). -/
def Obligations.PaddingHasNoEffect : Prop := ∀ (s : State) (p : Bits), exec (.pad p) s = .next s

/-! ## The whole machine -/

/-- Each register and table is written only by the phases the spec names (R25, R26, R27, R28, R29): whatever instruction
runs, and also where it raises. The tokens of the tree header are part of `D_HEADER`, those of the payload of
`D_WALK`. -/
def Obligations.OnlyTheNamedPhasesWrite : Prop :=
  ∀ (i : Instr) (s t : State), exec i s = .next t →
    (i ≠ .cFreq → t.freq = s.freq ∧ t.nIn = s.nIn) ∧
    (i ≠ .cBuild → t.live = s.live) ∧
    (i ≠ .cCodes → t.code = s.code ∧ t.path = s.path ∧ t.plen = s.plen) ∧
    (i ≠ .cBuild → i ≠ .dHeader → i ≠ .nodeInternal → (∀ sym, i ≠ .nodeLeaf sym) →
      t.nodes = s.nodes ∧ t.nodeCount = s.nodeCount ∧ t.root = s.root) ∧
    (i ≠ .cCodes → i ≠ .cHeader → i ≠ .dHeader → i ≠ .nodeInternal → (∀ sym, i ≠ .nodeLeaf sym) →
      t.stk = s.stk ∧ t.sp = s.sp) ∧
    (i ≠ .dWalk → (∀ c, i ≠ .codeword c) → (∀ c, i ≠ .terminator c) → t.cur = s.cur)

/-- `PHASE` moves only along the sequence of R24: a phase that runs while BUSY either goes on to the next code, still
BUSY and with `ERR` as it was, or, being a closing phase, sets it to 0 and the command is DONE, or raises and keeps it,
with an error in `ERR`. -/
def Obligations.PhaseFollowsTheSequence : Prop :=
  ∀ (i : Instr) (s t : State), isPhase i = true → s.phase = phaseCode i → s.runState = .busy → exec i s = .next t →
    (t.runState = .busy ∧ t.err = s.err ∧ t.phase = s.phase + 1 ∧ i ≠ .cClose ∧ i ≠ .dClose) ∨
    (t.runState = .done ∧ t.err = s.err ∧ t.phase = 0 ∧ (i = .cClose ∨ i = .dClose)) ∨
    (t.runState = .error ∧ t.err ≠ .none ∧ t.phase = s.phase)

/-- `ERR` is written in two places only (R23): the acceptance of a legal command clears it, a `raise` sets it and ends
the command. -/
def Obligations.ErrIsWrittenInTwoPlaces : Prop :=
  ∀ (i : Instr) (s t : State), exec i s = .next t → t.err ≠ s.err →
    (t.err = .none ∧ t.runState = .busy ∧ (i = .compress ∨ i = .decompress)) ∨ (t.err ≠ .none ∧ t.runState = .error)

/-- What has been written stays written (R235): whatever instruction runs, the bits on OUT before are the first bits on
OUT after. -/
def Obligations.OutputIsNeverRolledBack : Prop :=
  ∀ (i : Instr) (s t : State), exec i s = .next t → s.outBitsSoFar <+: t.outBitsSoFar

/-- `OutClose` is the last port transaction of a command and is issued on every exit (R65, R245): a phase that ends the
command leaves OUT closed, one that does not leaves it as open as it was. -/
def Obligations.OutputIsClosedExactlyAtTheEnd : Prop :=
  ∀ (i : Instr) (s t : State), isPhase i = true → s.runState = .busy → exec i s = .next t →
    (t.runState ≠ .busy → ∃ o, t.out = some o ∧ o.closed = true) ∧
    (t.runState = .busy → t.out.map (fun o => (o.closed, o.abandoned)) = s.out.map (fun o => (o.closed, o.abandoned)))

/-- The core cannot change its input (R39, R81), nor the streams that have left the ports, nor what the host is going to
do; and DECOMPRESS, its acceptance and
each of its phases, issues no `InRewind` (R63, R209). -/
def Obligations.InputIsOnlyRead : Prop :=
  ∀ (i : Instr) (s t : State), exec i s = .next t →
    SameInput s t ∧ t.host = s.host ∧ t.detachedIn = s.detachedIn ∧ t.detachedOut = s.detachedOut ∧
    (i = .decompress ∨ i = .dMagic ∨ i = .dHeader ∨ i = .dWalk ∨ i = .dClose →
      ∀ j, s.inp = some j → ∃ k new, t.inp = some k ∧ k.log = j.log ++ new ∧ .rewind ∉ new)

/-- The state after reset meets every invariant; the working registers and tables hold the model's own values there
(assumption 5). -/
def Obligations.ResetMeetsTheInvariants : Prop :=
  State.reset.ControlOk ∧ State.reset.InRange ∧ State.reset.CountsFit ∧ State.reset.CodesFit

/-- The control registers agree after every step if they did before (R22, R23, R24, R220, R221). -/
def Obligations.StepKeepsControl : Prop :=
  ∀ s t : State, s.ControlOk → step s = .next t → t.ControlOk

/-- The working registers and the node store stay in their ranges (R25, R27). -/
def Obligations.StepKeepsRanges : Prop :=
  ∀ s t : State, s.InRange → step s = .next t → t.InRange

/-- No counter and no weight outgrows `CNT_W` bits (R123, R136), and no codeword outgrows 256 bits (R29, R155). -/
def Obligations.StepKeepsWidths : Prop :=
  (∀ s t : State, s.CountsFit → step s = .next t → t.CountsFit) ∧
  (∀ s t : State, s.CodesFit → step s = .next t → t.CodesFit)

/-! ## The two commands as functions, and the laws that tie them together -/

/-- COMPRESS as a function (R187, R189): a write of 0x01 and eight phases, on an input of whole bytes and a fresh output,
end DONE with the magic, the tree header of the trie that the counts of the input build, the codewords of the bytes in
order and the terminator; the file is these bits and the padding; the input is read twice from its start. -/
def Obligations.CompressOutputAsAFunction : Prop :=
  ∀ (s : State) (i : InStream) (S : List Byte), s.runState ≠ .busy → s.host = [.write 0x0 0x01] → s.inp = some i →
    i.canRewind = true → i.data = unpackBytes S → S.length ≤ Config.maxIn → s.out = some ⟨[], false, false⟩ →
    ∃ t T, Sys2Proof.core.run 9 s = .next t ∧ t.runState = .done ∧ t.err = .none ∧ t.phase = 0 ∧
      huffman (positives (Vector.ofFn fun k => countOf S k.val)) = some T ∧
      t.out = some ⟨field 32 Config.magic.toNat ++ serBits T ++ payloadBits T S, true, false⟩ ∧
      (∀ o, t.out = some o → unpackBytes o.file = o.bits ++ padFor o.bits) ∧
      InLog s t (.rewind :: List.replicate (S.length + 1) (.bits 8) ++
        .rewind :: List.replicate (S.length + 1) (.bits 8))

/-- The empty input (R191): the exact 54 bits. -/
def Obligations.EmptyInputCompresses : Prop :=
  ∀ (s : State) (i : InStream), s.runState ≠ .busy → s.host = [.write 0x0 0x01] → s.inp = some i →
    i.canRewind = true → i.data = [] → s.out = some ⟨[], false, false⟩ →
    ∃ t, Sys2Proof.core.run 9 s = .next t ∧ t.runState = .done ∧ t.err = .none ∧
      t.out = some
        ⟨field 32 Config.magic.toNat ++
          [false, true, true, false, false, false, false, false, false, false, false,
            true, false, false, false, false, false, false, false, false, false, false], true, false⟩

/-- DECOMPRESS as a function (R207, R208): a write of 0x02 and four phases, on any input and a fresh output. -/
def Obligations.DecompressResultAsAFunction : Prop :=
  ∀ (s : State) (i : InStream), s.runState ≠ .busy → s.host = [.write 0x0 0x02] → s.inp = some i →
    s.out = some ⟨[], false, false⟩ →
    ∃ t, Sys2Proof.core.run 5 s = .next t ∧
      if s.inRest.length < 32 ∨ value (s.inRest.take 32) ≠ Config.magic.toNat then
        t.runState = .error ∧ t.err = .badMagic ∧ t.phase = 9 ∧ t.out = some ⟨[], true, false⟩
      else
        match readHeader (s.inRest.drop 32) with
        | .error e => t.runState = .error ∧ t.err = e ∧ t.phase = 10 ∧ t.out = some ⟨[], true, false⟩
        | .ok (T, y, _) =>
          match walk T T y with
          | (bytes, some rest) =>
            t.runState = .done ∧ t.err = .none ∧ t.phase = 0 ∧ t.out = some ⟨unpackBytes bytes, true, false⟩ ∧
              t.inRest = rest
          | (bytes, none) =>
            t.runState = .error ∧ t.err = .noEos ∧ t.phase = 11 ∧ t.out = some ⟨unpackBytes bytes, true, false⟩

/-- The round-trip law (R211): DECOMPRESS of the file COMPRESS wrote, or of its bits followed by any bits at all, ends
DONE with exactly the bytes that were compressed; and so does DECOMPRESS of a file in this format under any trie that
has a leaf for each of the bytes and the terminator, whatever tie-break and child order made it. -/
def Obligations.RoundTripLaw : Prop :=
  (∀ (s : State) (i : InStream) (S : List Byte), s.runState ≠ .busy → s.host = [.write 0x0 0x01] → s.inp = some i →
    i.canRewind = true → i.data = unpackBytes S → S.length ≤ Config.maxIn → s.out = some ⟨[], false, false⟩ →
    ∃ t o, Sys2Proof.core.run 9 s = .next t ∧ t.runState = .done ∧ t.out = some o ∧
      ∀ (d : Bits) (rewinds : Bool), d = unpackBytes o.file ∨ (∃ x, d = o.bits ++ x) →
        ∃ u p, Sys2Proof.core.run 5 { t.attach d 0 rewinds with host := [.write 0x0 0x02] } = .next u ∧
          u.runState = .done ∧ u.err = .none ∧ u.out = some p ∧ p.file = S) ∧
  (∀ (s : State) (i : InStream) (T : Trie) (S : List Byte) (x : Bits), s.runState ≠ .busy →
    s.host = [.write 0x0 0x02] → s.inp = some i → s.out = some ⟨[], false, false⟩ →
    s.inRest = field 32 Config.magic.toNat ++ serBits T ++ payloadBits T S ++ x →
    T.isInternal = true → T.size ≤ 513 → T.symbols.Nodup → (∀ y ∈ T.symbols, y.toNat ≤ 256) →
    Config.eosSym ∈ T.symbols → (∀ b ∈ S, b.zeroExtend 9 ∈ T.symbols) →
    ∃ u p, Sys2Proof.core.run 5 s = .next u ∧ u.runState = .done ∧ u.err = .none ∧ u.out = some p ∧ p.file = S)
end

