-- ==== Sys2Proof/Laws/Decode.lean ====
section
/-! SUPPORT. Small lemmas about fields, tries and the store. -/

namespace Sys2Proof

@[simp] theorem field_zero (v : Nat) : field 0 v = [] := rfl

theorem field_succ (n v : Nat) : field (n + 1) v = v.testBit n :: field n v := rfl

theorem field_length (n v : Nat) : (field n v).length = n := by
  induction n with
  | zero => rfl
  | succ n ih => simp [field, ih]

/-- A field depends on the low bits of its integer only. -/
theorem field_mod (n m v : Nat) (h : n ≤ m) : field n (v % 2 ^ m) = field n v := by
  induction n with
  | zero => rfl
  | succ n ih =>
    rw [field_succ, field_succ, ih (Nat.le_of_succ_le h), Nat.testBit_mod_two_pow]
    simp [Nat.lt_of_succ_le h]

@[simp] theorem value_nil : value [] = 0 := rfl

theorem byteBits_length (b : Byte) : (byteBits b).length = 8 := field_length _ _

theorem unpackBytes_length (f : List Byte) : (unpackBytes f).length = 8 * f.length := by
  induction f with
  | nil => rfl
  | cons b f ih => simp [unpackBytes, byteBits_length] at ih ⊢; omega

@[simp] theorem unpackBytes_nil : unpackBytes [] = [] := rfl

theorem unpackBytes_cons (b : Byte) (f : List Byte) : unpackBytes (b :: f) = byteBits b ++ unpackBytes f := rfl

namespace Machine

/-- What it takes for `Tree(i)` to be a leaf. -/
theorem treeAt_leaf {fuel i : Nat} {nodes : Vector Node 513} {sym : Symbol} {w : Nat}
    (h : treeAt fuel nodes i = some (.leaf sym w)) :
    ∃ nd, nodes[i]? = some nd ∧ nd.leaf = true ∧ nd.sym = sym ∧ nd.weight = w := by
  cases fuel with
  | zero => cases h
  | succ fuel =>
    simp only [treeAt] at h
    split at h
    · cases h
    · rename_i nd hnd
      split at h
      · rename_i hl
        cases h
        exact ⟨nd, hnd, hl, rfl, rfl⟩
      · split at h <;> cases h

/-- What it takes for `Tree(i)` to be an internal node. -/
theorem treeAt_internal {fuel i : Nat} {nodes : Vector Node 513} {w : Nat} {l r : Trie}
    (h : treeAt fuel nodes i = some (.internal w l r)) :
    ∃ nd fuel', fuel = fuel' + 1 ∧ nodes[i]? = some nd ∧ nd.leaf = false ∧ nd.weight = w ∧
      treeAt fuel' nodes nd.left = some l ∧ treeAt fuel' nodes nd.right = some r := by
  cases fuel with
  | zero => cases h
  | succ fuel =>
    simp only [treeAt] at h
    split at h
    · cases h
    · rename_i nd hnd
      split at h
      · cases h
      · rename_i hl
        split at h
        · rename_i l' r' hl' hr'
          cases h
          exact ⟨nd, fuel, rfl, hnd, by simpa using hl, rfl, hl', hr'⟩
        · cases h

end Machine

end Sys2Proof
end

