-- ==== Sys2Proof/Laws/State.lean ====
section
/-! SUPPORT. One lemma per field per update of State, each true by rfl, so that no proof unfolds an update. -/

namespace Sys2Proof.Machine

variable (s : State)

@[simp] theorem setPhase_cmd (p : BitVec 4) : (s.setPhase p).cmd = s.cmd := rfl
@[simp] theorem setPhase_runState (p : BitVec 4) : (s.setPhase p).runState = s.runState := rfl
@[simp] theorem setPhase_phase (p : BitVec 4) : (s.setPhase p).phase = p := rfl
@[simp] theorem setPhase_err (p : BitVec 4) : (s.setPhase p).err = s.err := rfl
@[simp] theorem setPhase_nIn (p : BitVec 4) : (s.setPhase p).nIn = s.nIn := rfl
@[simp] theorem setPhase_nodeCount (p : BitVec 4) : (s.setPhase p).nodeCount = s.nodeCount := rfl
@[simp] theorem setPhase_root (p : BitVec 4) : (s.setPhase p).root = s.root := rfl
@[simp] theorem setPhase_cur (p : BitVec 4) : (s.setPhase p).cur = s.cur := rfl
@[simp] theorem setPhase_path (p : BitVec 4) : (s.setPhase p).path = s.path := rfl
@[simp] theorem setPhase_plen (p : BitVec 4) : (s.setPhase p).plen = s.plen := rfl
@[simp] theorem setPhase_sp (p : BitVec 4) : (s.setPhase p).sp = s.sp := rfl
@[simp] theorem setPhase_freq (p : BitVec 4) : (s.setPhase p).freq = s.freq := rfl
@[simp] theorem setPhase_nodes (p : BitVec 4) : (s.setPhase p).nodes = s.nodes := rfl
@[simp] theorem setPhase_live (p : BitVec 4) : (s.setPhase p).live = s.live := rfl
@[simp] theorem setPhase_code (p : BitVec 4) : (s.setPhase p).code = s.code := rfl
@[simp] theorem setPhase_stk (p : BitVec 4) : (s.setPhase p).stk = s.stk := rfl
@[simp] theorem setPhase_inp (p : BitVec 4) : (s.setPhase p).inp = s.inp := rfl
@[simp] theorem setPhase_out (p : BitVec 4) : (s.setPhase p).out = s.out := rfl
@[simp] theorem setPhase_host (p : BitVec 4) : (s.setPhase p).host = s.host := rfl
@[simp] theorem setPhase_draws (p : BitVec 4) : (s.setPhase p).draws = s.draws := rfl
@[simp] theorem setPhase_detachedIn (p : BitVec 4) : (s.setPhase p).detachedIn = s.detachedIn := rfl
@[simp] theorem setPhase_detachedOut (p : BitVec 4) : (s.setPhase p).detachedOut = s.detachedOut := rfl

@[simp] theorem accept_cmd (c : Byte) (p : BitVec 4) : (s.accept c p).cmd = c := rfl
@[simp] theorem accept_runState (c : Byte) (p : BitVec 4) : (s.accept c p).runState = .busy := rfl
@[simp] theorem accept_phase (c : Byte) (p : BitVec 4) : (s.accept c p).phase = p := rfl
@[simp] theorem accept_err (c : Byte) (p : BitVec 4) : (s.accept c p).err = .none := rfl
@[simp] theorem accept_nIn (c : Byte) (p : BitVec 4) : (s.accept c p).nIn = s.nIn := rfl
@[simp] theorem accept_nodeCount (c : Byte) (p : BitVec 4) : (s.accept c p).nodeCount = s.nodeCount := rfl
@[simp] theorem accept_root (c : Byte) (p : BitVec 4) : (s.accept c p).root = s.root := rfl
@[simp] theorem accept_cur (c : Byte) (p : BitVec 4) : (s.accept c p).cur = s.cur := rfl
@[simp] theorem accept_path (c : Byte) (p : BitVec 4) : (s.accept c p).path = s.path := rfl
@[simp] theorem accept_plen (c : Byte) (p : BitVec 4) : (s.accept c p).plen = s.plen := rfl
@[simp] theorem accept_sp (c : Byte) (p : BitVec 4) : (s.accept c p).sp = s.sp := rfl
@[simp] theorem accept_freq (c : Byte) (p : BitVec 4) : (s.accept c p).freq = s.freq := rfl
@[simp] theorem accept_nodes (c : Byte) (p : BitVec 4) : (s.accept c p).nodes = s.nodes := rfl
@[simp] theorem accept_live (c : Byte) (p : BitVec 4) : (s.accept c p).live = s.live := rfl
@[simp] theorem accept_code (c : Byte) (p : BitVec 4) : (s.accept c p).code = s.code := rfl
@[simp] theorem accept_stk (c : Byte) (p : BitVec 4) : (s.accept c p).stk = s.stk := rfl
@[simp] theorem accept_inp (c : Byte) (p : BitVec 4) : (s.accept c p).inp = s.inp := rfl
@[simp] theorem accept_out (c : Byte) (p : BitVec 4) : (s.accept c p).out = s.out := rfl
@[simp] theorem accept_host (c : Byte) (p : BitVec 4) : (s.accept c p).host = s.host := rfl
@[simp] theorem accept_draws (c : Byte) (p : BitVec 4) : (s.accept c p).draws = s.draws := rfl
@[simp] theorem accept_detachedIn (c : Byte) (p : BitVec 4) : (s.accept c p).detachedIn = s.detachedIn := rfl
@[simp] theorem accept_detachedOut (c : Byte) (p : BitVec 4) : (s.accept c p).detachedOut = s.detachedOut := rfl

@[simp] theorem badCommand_cmd (c : Byte) : (s.badCommand c).cmd = c := rfl
@[simp] theorem badCommand_runState (c : Byte) : (s.badCommand c).runState = .error := rfl
@[simp] theorem badCommand_phase (c : Byte) : (s.badCommand c).phase = 0 := rfl
@[simp] theorem badCommand_err (c : Byte) : (s.badCommand c).err = .badCmd := rfl
@[simp] theorem badCommand_nIn (c : Byte) : (s.badCommand c).nIn = s.nIn := rfl
@[simp] theorem badCommand_nodeCount (c : Byte) : (s.badCommand c).nodeCount = s.nodeCount := rfl
@[simp] theorem badCommand_root (c : Byte) : (s.badCommand c).root = s.root := rfl
@[simp] theorem badCommand_cur (c : Byte) : (s.badCommand c).cur = s.cur := rfl
@[simp] theorem badCommand_path (c : Byte) : (s.badCommand c).path = s.path := rfl
@[simp] theorem badCommand_plen (c : Byte) : (s.badCommand c).plen = s.plen := rfl
@[simp] theorem badCommand_sp (c : Byte) : (s.badCommand c).sp = s.sp := rfl
@[simp] theorem badCommand_freq (c : Byte) : (s.badCommand c).freq = s.freq := rfl
@[simp] theorem badCommand_nodes (c : Byte) : (s.badCommand c).nodes = s.nodes := rfl
@[simp] theorem badCommand_live (c : Byte) : (s.badCommand c).live = s.live := rfl
@[simp] theorem badCommand_code (c : Byte) : (s.badCommand c).code = s.code := rfl
@[simp] theorem badCommand_stk (c : Byte) : (s.badCommand c).stk = s.stk := rfl
@[simp] theorem badCommand_inp (c : Byte) : (s.badCommand c).inp = s.inp := rfl
@[simp] theorem badCommand_out (c : Byte) : (s.badCommand c).out = s.out := rfl
@[simp] theorem badCommand_host (c : Byte) : (s.badCommand c).host = s.host := rfl
@[simp] theorem badCommand_draws (c : Byte) : (s.badCommand c).draws = s.draws := rfl
@[simp] theorem badCommand_detachedIn (c : Byte) : (s.badCommand c).detachedIn = s.detachedIn := rfl
@[simp] theorem badCommand_detachedOut (c : Byte) : (s.badCommand c).detachedOut = s.detachedOut := rfl

@[simp] theorem countByte_cmd (v : Nat) : (s.countByte v).cmd = s.cmd := rfl
@[simp] theorem countByte_runState (v : Nat) : (s.countByte v).runState = s.runState := rfl
@[simp] theorem countByte_phase (v : Nat) : (s.countByte v).phase = s.phase := rfl
@[simp] theorem countByte_err (v : Nat) : (s.countByte v).err = s.err := rfl
@[simp] theorem countByte_nIn (v : Nat) : (s.countByte v).nIn = s.nIn + 1 := rfl
@[simp] theorem countByte_nodeCount (v : Nat) : (s.countByte v).nodeCount = s.nodeCount := rfl
@[simp] theorem countByte_root (v : Nat) : (s.countByte v).root = s.root := rfl
@[simp] theorem countByte_cur (v : Nat) : (s.countByte v).cur = s.cur := rfl
@[simp] theorem countByte_path (v : Nat) : (s.countByte v).path = s.path := rfl
@[simp] theorem countByte_plen (v : Nat) : (s.countByte v).plen = s.plen := rfl
@[simp] theorem countByte_sp (v : Nat) : (s.countByte v).sp = s.sp := rfl
@[simp] theorem countByte_freq (v : Nat) : (s.countByte v).freq = s.freq.setIfInBounds v (s.readFreq v + 1) := rfl
@[simp] theorem countByte_nodes (v : Nat) : (s.countByte v).nodes = s.nodes := rfl
@[simp] theorem countByte_live (v : Nat) : (s.countByte v).live = s.live := rfl
@[simp] theorem countByte_code (v : Nat) : (s.countByte v).code = s.code := rfl
@[simp] theorem countByte_stk (v : Nat) : (s.countByte v).stk = s.stk := rfl
@[simp] theorem countByte_inp (v : Nat) : (s.countByte v).inp = s.inp := rfl
@[simp] theorem countByte_out (v : Nat) : (s.countByte v).out = s.out := rfl
@[simp] theorem countByte_host (v : Nat) : (s.countByte v).host = s.host := rfl
@[simp] theorem countByte_draws (v : Nat) : (s.countByte v).draws = s.draws := rfl
@[simp] theorem countByte_detachedIn (v : Nat) : (s.countByte v).detachedIn = s.detachedIn := rfl
@[simp] theorem countByte_detachedOut (v : Nat) : (s.countByte v).detachedOut = s.detachedOut := rfl

@[simp] theorem writeFreq_cmd (v c : Nat) : (s.writeFreq v c).cmd = s.cmd := rfl
@[simp] theorem writeFreq_runState (v c : Nat) : (s.writeFreq v c).runState = s.runState := rfl
@[simp] theorem writeFreq_phase (v c : Nat) : (s.writeFreq v c).phase = s.phase := rfl
@[simp] theorem writeFreq_err (v c : Nat) : (s.writeFreq v c).err = s.err := rfl
@[simp] theorem writeFreq_nIn (v c : Nat) : (s.writeFreq v c).nIn = s.nIn := rfl
@[simp] theorem writeFreq_nodeCount (v c : Nat) : (s.writeFreq v c).nodeCount = s.nodeCount := rfl
@[simp] theorem writeFreq_root (v c : Nat) : (s.writeFreq v c).root = s.root := rfl
@[simp] theorem writeFreq_cur (v c : Nat) : (s.writeFreq v c).cur = s.cur := rfl
@[simp] theorem writeFreq_path (v c : Nat) : (s.writeFreq v c).path = s.path := rfl
@[simp] theorem writeFreq_plen (v c : Nat) : (s.writeFreq v c).plen = s.plen := rfl
@[simp] theorem writeFreq_sp (v c : Nat) : (s.writeFreq v c).sp = s.sp := rfl
@[simp] theorem writeFreq_freq (v c : Nat) : (s.writeFreq v c).freq = s.freq.setIfInBounds v c := rfl
@[simp] theorem writeFreq_nodes (v c : Nat) : (s.writeFreq v c).nodes = s.nodes := rfl
@[simp] theorem writeFreq_live (v c : Nat) : (s.writeFreq v c).live = s.live := rfl
@[simp] theorem writeFreq_code (v c : Nat) : (s.writeFreq v c).code = s.code := rfl
@[simp] theorem writeFreq_stk (v c : Nat) : (s.writeFreq v c).stk = s.stk := rfl
@[simp] theorem writeFreq_inp (v c : Nat) : (s.writeFreq v c).inp = s.inp := rfl
@[simp] theorem writeFreq_out (v c : Nat) : (s.writeFreq v c).out = s.out := rfl
@[simp] theorem writeFreq_host (v c : Nat) : (s.writeFreq v c).host = s.host := rfl
@[simp] theorem writeFreq_draws (v c : Nat) : (s.writeFreq v c).draws = s.draws := rfl
@[simp] theorem writeFreq_detachedIn (v c : Nat) : (s.writeFreq v c).detachedIn = s.detachedIn := rfl
@[simp] theorem writeFreq_detachedOut (v c : Nat) : (s.writeFreq v c).detachedOut = s.detachedOut := rfl

@[simp] theorem writeCode_cmd (v : Nat) (e : CodeEntry) : (s.writeCode v e).cmd = s.cmd := rfl
@[simp] theorem writeCode_runState (v : Nat) (e : CodeEntry) : (s.writeCode v e).runState = s.runState := rfl
@[simp] theorem writeCode_phase (v : Nat) (e : CodeEntry) : (s.writeCode v e).phase = s.phase := rfl
@[simp] theorem writeCode_err (v : Nat) (e : CodeEntry) : (s.writeCode v e).err = s.err := rfl
@[simp] theorem writeCode_nIn (v : Nat) (e : CodeEntry) : (s.writeCode v e).nIn = s.nIn := rfl
@[simp] theorem writeCode_nodeCount (v : Nat) (e : CodeEntry) : (s.writeCode v e).nodeCount = s.nodeCount := rfl
@[simp] theorem writeCode_root (v : Nat) (e : CodeEntry) : (s.writeCode v e).root = s.root := rfl
@[simp] theorem writeCode_cur (v : Nat) (e : CodeEntry) : (s.writeCode v e).cur = s.cur := rfl
@[simp] theorem writeCode_path (v : Nat) (e : CodeEntry) : (s.writeCode v e).path = s.path := rfl
@[simp] theorem writeCode_plen (v : Nat) (e : CodeEntry) : (s.writeCode v e).plen = s.plen := rfl
@[simp] theorem writeCode_sp (v : Nat) (e : CodeEntry) : (s.writeCode v e).sp = s.sp := rfl
@[simp] theorem writeCode_freq (v : Nat) (e : CodeEntry) : (s.writeCode v e).freq = s.freq := rfl
@[simp] theorem writeCode_nodes (v : Nat) (e : CodeEntry) : (s.writeCode v e).nodes = s.nodes := rfl
@[simp] theorem writeCode_live (v : Nat) (e : CodeEntry) : (s.writeCode v e).live = s.live := rfl
@[simp] theorem writeCode_code (v : Nat) (e : CodeEntry) : (s.writeCode v e).code = s.code.setIfInBounds v e := rfl
@[simp] theorem writeCode_stk (v : Nat) (e : CodeEntry) : (s.writeCode v e).stk = s.stk := rfl
@[simp] theorem writeCode_inp (v : Nat) (e : CodeEntry) : (s.writeCode v e).inp = s.inp := rfl
@[simp] theorem writeCode_out (v : Nat) (e : CodeEntry) : (s.writeCode v e).out = s.out := rfl
@[simp] theorem writeCode_host (v : Nat) (e : CodeEntry) : (s.writeCode v e).host = s.host := rfl
@[simp] theorem writeCode_draws (v : Nat) (e : CodeEntry) : (s.writeCode v e).draws = s.draws := rfl
@[simp] theorem writeCode_detachedIn (v : Nat) (e : CodeEntry) : (s.writeCode v e).detachedIn = s.detachedIn := rfl
@[simp] theorem writeCode_detachedOut (v : Nat) (e : CodeEntry) : (s.writeCode v e).detachedOut = s.detachedOut := rfl

@[simp] theorem writeNode_cmd (i : Nat) (n : Node) : (s.writeNode i n).cmd = s.cmd := rfl
@[simp] theorem writeNode_runState (i : Nat) (n : Node) : (s.writeNode i n).runState = s.runState := rfl
@[simp] theorem writeNode_phase (i : Nat) (n : Node) : (s.writeNode i n).phase = s.phase := rfl
@[simp] theorem writeNode_err (i : Nat) (n : Node) : (s.writeNode i n).err = s.err := rfl
@[simp] theorem writeNode_nIn (i : Nat) (n : Node) : (s.writeNode i n).nIn = s.nIn := rfl
@[simp] theorem writeNode_nodeCount (i : Nat) (n : Node) : (s.writeNode i n).nodeCount = s.nodeCount := rfl
@[simp] theorem writeNode_root (i : Nat) (n : Node) : (s.writeNode i n).root = s.root := rfl
@[simp] theorem writeNode_cur (i : Nat) (n : Node) : (s.writeNode i n).cur = s.cur := rfl
@[simp] theorem writeNode_path (i : Nat) (n : Node) : (s.writeNode i n).path = s.path := rfl
@[simp] theorem writeNode_plen (i : Nat) (n : Node) : (s.writeNode i n).plen = s.plen := rfl
@[simp] theorem writeNode_sp (i : Nat) (n : Node) : (s.writeNode i n).sp = s.sp := rfl
@[simp] theorem writeNode_freq (i : Nat) (n : Node) : (s.writeNode i n).freq = s.freq := rfl
@[simp] theorem writeNode_nodes (i : Nat) (n : Node) : (s.writeNode i n).nodes = s.nodes.setIfInBounds i n := rfl
@[simp] theorem writeNode_live (i : Nat) (n : Node) : (s.writeNode i n).live = s.live := rfl
@[simp] theorem writeNode_code (i : Nat) (n : Node) : (s.writeNode i n).code = s.code := rfl
@[simp] theorem writeNode_stk (i : Nat) (n : Node) : (s.writeNode i n).stk = s.stk := rfl
@[simp] theorem writeNode_inp (i : Nat) (n : Node) : (s.writeNode i n).inp = s.inp := rfl
@[simp] theorem writeNode_out (i : Nat) (n : Node) : (s.writeNode i n).out = s.out := rfl
@[simp] theorem writeNode_host (i : Nat) (n : Node) : (s.writeNode i n).host = s.host := rfl
@[simp] theorem writeNode_draws (i : Nat) (n : Node) : (s.writeNode i n).draws = s.draws := rfl
@[simp] theorem writeNode_detachedIn (i : Nat) (n : Node) : (s.writeNode i n).detachedIn = s.detachedIn := rfl
@[simp] theorem writeNode_detachedOut (i : Nat) (n : Node) : (s.writeNode i n).detachedOut = s.detachedOut := rfl

@[simp] theorem writeLive_cmd (i : Nat) (b : Bool) : (s.writeLive i b).cmd = s.cmd := rfl
@[simp] theorem writeLive_runState (i : Nat) (b : Bool) : (s.writeLive i b).runState = s.runState := rfl
@[simp] theorem writeLive_phase (i : Nat) (b : Bool) : (s.writeLive i b).phase = s.phase := rfl
@[simp] theorem writeLive_err (i : Nat) (b : Bool) : (s.writeLive i b).err = s.err := rfl
@[simp] theorem writeLive_nIn (i : Nat) (b : Bool) : (s.writeLive i b).nIn = s.nIn := rfl
@[simp] theorem writeLive_nodeCount (i : Nat) (b : Bool) : (s.writeLive i b).nodeCount = s.nodeCount := rfl
@[simp] theorem writeLive_root (i : Nat) (b : Bool) : (s.writeLive i b).root = s.root := rfl
@[simp] theorem writeLive_cur (i : Nat) (b : Bool) : (s.writeLive i b).cur = s.cur := rfl
@[simp] theorem writeLive_path (i : Nat) (b : Bool) : (s.writeLive i b).path = s.path := rfl
@[simp] theorem writeLive_plen (i : Nat) (b : Bool) : (s.writeLive i b).plen = s.plen := rfl
@[simp] theorem writeLive_sp (i : Nat) (b : Bool) : (s.writeLive i b).sp = s.sp := rfl
@[simp] theorem writeLive_freq (i : Nat) (b : Bool) : (s.writeLive i b).freq = s.freq := rfl
@[simp] theorem writeLive_nodes (i : Nat) (b : Bool) : (s.writeLive i b).nodes = s.nodes := rfl
@[simp] theorem writeLive_live (i : Nat) (b : Bool) : (s.writeLive i b).live = s.live.setIfInBounds i b := rfl
@[simp] theorem writeLive_code (i : Nat) (b : Bool) : (s.writeLive i b).code = s.code := rfl
@[simp] theorem writeLive_stk (i : Nat) (b : Bool) : (s.writeLive i b).stk = s.stk := rfl
@[simp] theorem writeLive_inp (i : Nat) (b : Bool) : (s.writeLive i b).inp = s.inp := rfl
@[simp] theorem writeLive_out (i : Nat) (b : Bool) : (s.writeLive i b).out = s.out := rfl
@[simp] theorem writeLive_host (i : Nat) (b : Bool) : (s.writeLive i b).host = s.host := rfl
@[simp] theorem writeLive_draws (i : Nat) (b : Bool) : (s.writeLive i b).draws = s.draws := rfl
@[simp] theorem writeLive_detachedIn (i : Nat) (b : Bool) : (s.writeLive i b).detachedIn = s.detachedIn := rfl
@[simp] theorem writeLive_detachedOut (i : Nat) (b : Bool) : (s.writeLive i b).detachedOut = s.detachedOut := rfl

@[simp] theorem addNode_cmd (n : Node) : (s.addNode n).cmd = s.cmd := rfl
@[simp] theorem addNode_runState (n : Node) : (s.addNode n).runState = s.runState := rfl
@[simp] theorem addNode_phase (n : Node) : (s.addNode n).phase = s.phase := rfl
@[simp] theorem addNode_err (n : Node) : (s.addNode n).err = s.err := rfl
@[simp] theorem addNode_nIn (n : Node) : (s.addNode n).nIn = s.nIn := rfl
@[simp] theorem addNode_nodeCount (n : Node) : (s.addNode n).nodeCount = s.nodeCount + 1 := rfl
@[simp] theorem addNode_root (n : Node) : (s.addNode n).root = s.root := rfl
@[simp] theorem addNode_cur (n : Node) : (s.addNode n).cur = s.cur := rfl
@[simp] theorem addNode_path (n : Node) : (s.addNode n).path = s.path := rfl
@[simp] theorem addNode_plen (n : Node) : (s.addNode n).plen = s.plen := rfl
@[simp] theorem addNode_sp (n : Node) : (s.addNode n).sp = s.sp := rfl
@[simp] theorem addNode_freq (n : Node) : (s.addNode n).freq = s.freq := rfl
@[simp] theorem addNode_nodes (n : Node) : (s.addNode n).nodes = s.nodes.setIfInBounds s.nodeCount n := rfl
@[simp] theorem addNode_live (n : Node) : (s.addNode n).live = s.live.setIfInBounds s.nodeCount true := rfl
@[simp] theorem addNode_code (n : Node) : (s.addNode n).code = s.code := rfl
@[simp] theorem addNode_stk (n : Node) : (s.addNode n).stk = s.stk := rfl
@[simp] theorem addNode_inp (n : Node) : (s.addNode n).inp = s.inp := rfl
@[simp] theorem addNode_out (n : Node) : (s.addNode n).out = s.out := rfl
@[simp] theorem addNode_host (n : Node) : (s.addNode n).host = s.host := rfl
@[simp] theorem addNode_draws (n : Node) : (s.addNode n).draws = s.draws := rfl
@[simp] theorem addNode_detachedIn (n : Node) : (s.addNode n).detachedIn = s.detachedIn := rfl
@[simp] theorem addNode_detachedOut (n : Node) : (s.addNode n).detachedOut = s.detachedOut := rfl

@[simp] theorem takeIndex_cmd : (s.takeIndex).cmd = s.cmd := rfl
@[simp] theorem takeIndex_runState : (s.takeIndex).runState = s.runState := rfl
@[simp] theorem takeIndex_phase : (s.takeIndex).phase = s.phase := rfl
@[simp] theorem takeIndex_err : (s.takeIndex).err = s.err := rfl
@[simp] theorem takeIndex_nIn : (s.takeIndex).nIn = s.nIn := rfl
@[simp] theorem takeIndex_nodeCount : (s.takeIndex).nodeCount = s.nodeCount + 1 := rfl
@[simp] theorem takeIndex_root : (s.takeIndex).root = s.root := rfl
@[simp] theorem takeIndex_cur : (s.takeIndex).cur = s.cur := rfl
@[simp] theorem takeIndex_path : (s.takeIndex).path = s.path := rfl
@[simp] theorem takeIndex_plen : (s.takeIndex).plen = s.plen := rfl
@[simp] theorem takeIndex_sp : (s.takeIndex).sp = s.sp := rfl
@[simp] theorem takeIndex_freq : (s.takeIndex).freq = s.freq := rfl
@[simp] theorem takeIndex_nodes : (s.takeIndex).nodes = s.nodes := rfl
@[simp] theorem takeIndex_live : (s.takeIndex).live = s.live := rfl
@[simp] theorem takeIndex_code : (s.takeIndex).code = s.code := rfl
@[simp] theorem takeIndex_stk : (s.takeIndex).stk = s.stk := rfl
@[simp] theorem takeIndex_inp : (s.takeIndex).inp = s.inp := rfl
@[simp] theorem takeIndex_out : (s.takeIndex).out = s.out := rfl
@[simp] theorem takeIndex_host : (s.takeIndex).host = s.host := rfl
@[simp] theorem takeIndex_draws : (s.takeIndex).draws = s.draws := rfl
@[simp] theorem takeIndex_detachedIn : (s.takeIndex).detachedIn = s.detachedIn := rfl
@[simp] theorem takeIndex_detachedOut : (s.takeIndex).detachedOut = s.detachedOut := rfl

@[simp] theorem pathDown_cmd : (s.pathDown).cmd = s.cmd := rfl
@[simp] theorem pathDown_runState : (s.pathDown).runState = s.runState := rfl
@[simp] theorem pathDown_phase : (s.pathDown).phase = s.phase := rfl
@[simp] theorem pathDown_err : (s.pathDown).err = s.err := rfl
@[simp] theorem pathDown_nIn : (s.pathDown).nIn = s.nIn := rfl
@[simp] theorem pathDown_nodeCount : (s.pathDown).nodeCount = s.nodeCount := rfl
@[simp] theorem pathDown_root : (s.pathDown).root = s.root := rfl
@[simp] theorem pathDown_cur : (s.pathDown).cur = s.cur := rfl
@[simp] theorem pathDown_path : (s.pathDown).path = 2 * s.path := rfl
@[simp] theorem pathDown_plen : (s.pathDown).plen = s.plen + 1 := rfl
@[simp] theorem pathDown_sp : (s.pathDown).sp = s.sp := rfl
@[simp] theorem pathDown_freq : (s.pathDown).freq = s.freq := rfl
@[simp] theorem pathDown_nodes : (s.pathDown).nodes = s.nodes := rfl
@[simp] theorem pathDown_live : (s.pathDown).live = s.live := rfl
@[simp] theorem pathDown_code : (s.pathDown).code = s.code := rfl
@[simp] theorem pathDown_stk : (s.pathDown).stk = s.stk := rfl
@[simp] theorem pathDown_inp : (s.pathDown).inp = s.inp := rfl
@[simp] theorem pathDown_out : (s.pathDown).out = s.out := rfl
@[simp] theorem pathDown_host : (s.pathDown).host = s.host := rfl
@[simp] theorem pathDown_draws : (s.pathDown).draws = s.draws := rfl
@[simp] theorem pathDown_detachedIn : (s.pathDown).detachedIn = s.detachedIn := rfl
@[simp] theorem pathDown_detachedOut : (s.pathDown).detachedOut = s.detachedOut := rfl

@[simp] theorem pathAcross_cmd : (s.pathAcross).cmd = s.cmd := rfl
@[simp] theorem pathAcross_runState : (s.pathAcross).runState = s.runState := rfl
@[simp] theorem pathAcross_phase : (s.pathAcross).phase = s.phase := rfl
@[simp] theorem pathAcross_err : (s.pathAcross).err = s.err := rfl
@[simp] theorem pathAcross_nIn : (s.pathAcross).nIn = s.nIn := rfl
@[simp] theorem pathAcross_nodeCount : (s.pathAcross).nodeCount = s.nodeCount := rfl
@[simp] theorem pathAcross_root : (s.pathAcross).root = s.root := rfl
@[simp] theorem pathAcross_cur : (s.pathAcross).cur = s.cur := rfl
@[simp] theorem pathAcross_path : (s.pathAcross).path = s.path + 1 := rfl
@[simp] theorem pathAcross_plen : (s.pathAcross).plen = s.plen := rfl
@[simp] theorem pathAcross_sp : (s.pathAcross).sp = s.sp := rfl
@[simp] theorem pathAcross_freq : (s.pathAcross).freq = s.freq := rfl
@[simp] theorem pathAcross_nodes : (s.pathAcross).nodes = s.nodes := rfl
@[simp] theorem pathAcross_live : (s.pathAcross).live = s.live := rfl
@[simp] theorem pathAcross_code : (s.pathAcross).code = s.code := rfl
@[simp] theorem pathAcross_stk : (s.pathAcross).stk = s.stk := rfl
@[simp] theorem pathAcross_inp : (s.pathAcross).inp = s.inp := rfl
@[simp] theorem pathAcross_out : (s.pathAcross).out = s.out := rfl
@[simp] theorem pathAcross_host : (s.pathAcross).host = s.host := rfl
@[simp] theorem pathAcross_draws : (s.pathAcross).draws = s.draws := rfl
@[simp] theorem pathAcross_detachedIn : (s.pathAcross).detachedIn = s.detachedIn := rfl
@[simp] theorem pathAcross_detachedOut : (s.pathAcross).detachedOut = s.detachedOut := rfl

@[simp] theorem pathUp_cmd : (s.pathUp).cmd = s.cmd := rfl
@[simp] theorem pathUp_runState : (s.pathUp).runState = s.runState := rfl
@[simp] theorem pathUp_phase : (s.pathUp).phase = s.phase := rfl
@[simp] theorem pathUp_err : (s.pathUp).err = s.err := rfl
@[simp] theorem pathUp_nIn : (s.pathUp).nIn = s.nIn := rfl
@[simp] theorem pathUp_nodeCount : (s.pathUp).nodeCount = s.nodeCount := rfl
@[simp] theorem pathUp_root : (s.pathUp).root = s.root := rfl
@[simp] theorem pathUp_cur : (s.pathUp).cur = s.cur := rfl
@[simp] theorem pathUp_path : (s.pathUp).path = s.path / 2 := rfl
@[simp] theorem pathUp_plen : (s.pathUp).plen = s.plen - 1 := rfl
@[simp] theorem pathUp_sp : (s.pathUp).sp = s.sp := rfl
@[simp] theorem pathUp_freq : (s.pathUp).freq = s.freq := rfl
@[simp] theorem pathUp_nodes : (s.pathUp).nodes = s.nodes := rfl
@[simp] theorem pathUp_live : (s.pathUp).live = s.live := rfl
@[simp] theorem pathUp_code : (s.pathUp).code = s.code := rfl
@[simp] theorem pathUp_stk : (s.pathUp).stk = s.stk := rfl
@[simp] theorem pathUp_inp : (s.pathUp).inp = s.inp := rfl
@[simp] theorem pathUp_out : (s.pathUp).out = s.out := rfl
@[simp] theorem pathUp_host : (s.pathUp).host = s.host := rfl
@[simp] theorem pathUp_draws : (s.pathUp).draws = s.draws := rfl
@[simp] theorem pathUp_detachedIn : (s.pathUp).detachedIn = s.detachedIn := rfl
@[simp] theorem pathUp_detachedOut : (s.pathUp).detachedOut = s.detachedOut := rfl

@[simp] theorem finishBuild_cmd : (s.finishBuild).cmd = s.cmd := rfl
@[simp] theorem finishBuild_runState : (s.finishBuild).runState = s.runState := rfl
@[simp] theorem finishBuild_phase : (s.finishBuild).phase = 3 := rfl
@[simp] theorem finishBuild_err : (s.finishBuild).err = s.err := rfl
@[simp] theorem finishBuild_nIn : (s.finishBuild).nIn = s.nIn := rfl
@[simp] theorem finishBuild_nodeCount : (s.finishBuild).nodeCount = s.nodeCount := rfl
@[simp] theorem finishBuild_root : (s.finishBuild).root = s.nodeCount - 1 := rfl
@[simp] theorem finishBuild_cur : (s.finishBuild).cur = s.cur := rfl
@[simp] theorem finishBuild_path : (s.finishBuild).path = s.path := rfl
@[simp] theorem finishBuild_plen : (s.finishBuild).plen = s.plen := rfl
@[simp] theorem finishBuild_sp : (s.finishBuild).sp = s.sp := rfl
@[simp] theorem finishBuild_freq : (s.finishBuild).freq = s.freq := rfl
@[simp] theorem finishBuild_nodes : (s.finishBuild).nodes = s.nodes := rfl
@[simp] theorem finishBuild_live : (s.finishBuild).live = s.live := rfl
@[simp] theorem finishBuild_code : (s.finishBuild).code = s.code := rfl
@[simp] theorem finishBuild_stk : (s.finishBuild).stk = s.stk := rfl
@[simp] theorem finishBuild_inp : (s.finishBuild).inp = s.inp := rfl
@[simp] theorem finishBuild_out : (s.finishBuild).out = s.out := rfl
@[simp] theorem finishBuild_host : (s.finishBuild).host = s.host := rfl
@[simp] theorem finishBuild_draws : (s.finishBuild).draws = s.draws := rfl
@[simp] theorem finishBuild_detachedIn : (s.finishBuild).detachedIn = s.detachedIn := rfl
@[simp] theorem finishBuild_detachedOut : (s.finishBuild).detachedOut = s.detachedOut := rfl

@[simp] theorem emptyStore_cmd : (s.emptyStore).cmd = s.cmd := rfl
@[simp] theorem emptyStore_runState : (s.emptyStore).runState = s.runState := rfl
@[simp] theorem emptyStore_phase : (s.emptyStore).phase = s.phase := rfl
@[simp] theorem emptyStore_err : (s.emptyStore).err = s.err := rfl
@[simp] theorem emptyStore_nIn : (s.emptyStore).nIn = s.nIn := rfl
@[simp] theorem emptyStore_nodeCount : (s.emptyStore).nodeCount = 0 := rfl
@[simp] theorem emptyStore_root : (s.emptyStore).root = s.root := rfl
@[simp] theorem emptyStore_cur : (s.emptyStore).cur = s.cur := rfl
@[simp] theorem emptyStore_path : (s.emptyStore).path = s.path := rfl
@[simp] theorem emptyStore_plen : (s.emptyStore).plen = s.plen := rfl
@[simp] theorem emptyStore_sp : (s.emptyStore).sp = s.sp := rfl
@[simp] theorem emptyStore_freq : (s.emptyStore).freq = s.freq := rfl
@[simp] theorem emptyStore_nodes : (s.emptyStore).nodes = s.nodes := rfl
@[simp] theorem emptyStore_live : (s.emptyStore).live = Vector.replicate 513 false := rfl
@[simp] theorem emptyStore_code : (s.emptyStore).code = s.code := rfl
@[simp] theorem emptyStore_stk : (s.emptyStore).stk = s.stk := rfl
@[simp] theorem emptyStore_inp : (s.emptyStore).inp = s.inp := rfl
@[simp] theorem emptyStore_out : (s.emptyStore).out = s.out := rfl
@[simp] theorem emptyStore_host : (s.emptyStore).host = s.host := rfl
@[simp] theorem emptyStore_draws : (s.emptyStore).draws = s.draws := rfl
@[simp] theorem emptyStore_detachedIn : (s.emptyStore).detachedIn = s.detachedIn := rfl
@[simp] theorem emptyStore_detachedOut : (s.emptyStore).detachedOut = s.detachedOut := rfl

@[simp] theorem doReset_cmd : (s.doReset).cmd = 0 := rfl
@[simp] theorem doReset_runState : (s.doReset).runState = .idle := rfl
@[simp] theorem doReset_phase : (s.doReset).phase = 0 := rfl
@[simp] theorem doReset_err : (s.doReset).err = .none := rfl
@[simp] theorem doReset_nIn : (s.doReset).nIn = State.reset.nIn := rfl
@[simp] theorem doReset_nodeCount : (s.doReset).nodeCount = State.reset.nodeCount := rfl
@[simp] theorem doReset_root : (s.doReset).root = State.reset.root := rfl
@[simp] theorem doReset_cur : (s.doReset).cur = State.reset.cur := rfl
@[simp] theorem doReset_path : (s.doReset).path = State.reset.path := rfl
@[simp] theorem doReset_plen : (s.doReset).plen = State.reset.plen := rfl
@[simp] theorem doReset_sp : (s.doReset).sp = State.reset.sp := rfl
@[simp] theorem doReset_freq : (s.doReset).freq = State.reset.freq := rfl
@[simp] theorem doReset_nodes : (s.doReset).nodes = State.reset.nodes := rfl
@[simp] theorem doReset_live : (s.doReset).live = State.reset.live := rfl
@[simp] theorem doReset_code : (s.doReset).code = State.reset.code := rfl
@[simp] theorem doReset_stk : (s.doReset).stk = State.reset.stk := rfl
@[simp] theorem doReset_inp : (s.doReset).inp = none := rfl
@[simp] theorem doReset_out : (s.doReset).out = none := rfl
@[simp] theorem doReset_host : (s.doReset).host = s.host := rfl
@[simp] theorem doReset_draws : (s.doReset).draws = s.draws := rfl
@[simp] theorem doReset_detachedIn : (s.doReset).detachedIn = s.inp.toList ++ s.detachedIn := rfl
@[simp] theorem doReset_detachedOut : (s.doReset).detachedOut =
    (s.out.map fun o => if s.runState = .busy then { o with abandoned := true } else o).toList ++ s.detachedOut := rfl

end Sys2Proof.Machine
end

