-- ==== Sys2Proof/Laws/Ops.lean ====
section
/-! SUPPORT. What each shared operation can do, said once: the outcome of every port primitive, of raising, starting
and ending a command, of reset, of the stack, and what a traversal or a loop can change. -/

namespace Sys2Proof.Machine

/-! ## Sequencing -/

@[simp] theorem andThen_of_next {σ τ : Type} (a : σ) (f : σ → Host.Outcome τ Fault Refusal) :
    andThen (.next a) f = f a := rfl

@[simp] theorem andThen_of_fault {σ τ : Type} (r : Fault) (f : σ → Host.Outcome τ Fault Refusal) :
    andThen (.fault r) f = .fault r := rfl

@[simp] theorem andThen_of_refused {σ τ : Type} (r : Refusal) (f : σ → Host.Outcome τ Fault Refusal) :
    andThen (.refused r) f = .refused r := rfl

theorem andThen_eq_next {σ τ : Type} {o : Host.Outcome σ Fault Refusal} {f : σ → Host.Outcome τ Fault Refusal} {b : τ} :
    andThen o f = .next b ↔ ∃ a, o = .next a ∧ f a = .next b := by
  cases o <;> simp [andThen]

theorem andThen_assoc {σ τ υ : Type} (o : Host.Outcome σ Fault Refusal) (f : σ → Host.Outcome τ Fault Refusal)
    (g : τ → Host.Outcome υ Fault Refusal) : andThen (andThen o f) g = andThen o fun a => andThen (f a) g := by
  cases o <;> rfl

/-! ## The ports -/

/-- The state after an `InBits(n)` that was answered with `EOS` (R61, R62). -/
def afterEos (s : State) (n : Nat) : State :=
  { s with
    inp := s.inp.map fun i => { i with pos := Config.posAfterEos s.draws, log := i.log ++ [.bits n] }
    draws := s.draws + 1 }

theorem inRest_length {s : State} {i : InStream} (hi : s.inp = some i) :
    s.inRest.length = i.data.length - i.pos := by simp [State.inRest, hi]

/-- `InBits(n)` with enough bits left. -/
theorem inBits_answers {s : State} {i : InStream} {n : Nat} (hi : s.inp = some i) (hn : n ≤ s.inRest.length) :
    inBits n s = .next (some (value (s.inRest.take n)), s.advance n) := by
  rw [inRest_length hi] at hn
  simp [inBits, hi, hn, State.inRest, State.advance]

/-- `InBits(n)` with too few bits left. -/
theorem inBits_ends {s : State} {i : InStream} {n : Nat} (hi : s.inp = some i) (hn : s.inRest.length < n) :
    inBits n s = .next (none, afterEos s n) := by
  rw [inRest_length hi] at hn
  simp [inBits, hi, Nat.not_le.mpr hn, afterEos]

/-- Everything `InBits(n)` can answer. -/
theorem inBits_next {s t : State} {n : Nat} {v : Option Nat} (h : inBits n s = .next (v, t)) :
    (∃ i, s.inp = some i) ∧
      ((n ≤ s.inRest.length ∧ v = some (value (s.inRest.take n)) ∧ t = s.advance n) ∨
        (s.inRest.length < n ∧ v = none ∧ t = afterEos s n)) := by
  cases hi : s.inp with
  | none => simp [inBits, hi] at h
  | some i =>
    refine ⟨⟨i, rfl⟩, ?_⟩
    rcases Nat.lt_or_ge s.inRest.length n with hn | hn
    · rw [inBits_ends hi hn] at h
      cases h
      exact .inr ⟨hn, rfl, rfl⟩
    · rw [inBits_answers hi hn] at h
      cases h
      exact .inl ⟨hn, rfl, rfl⟩

/-- Everything `InRewind()` can do. -/
theorem inRewind_next {s t : State} (h : inRewind s = .next t) :
    ∃ i, s.inp = some i ∧ i.canRewind = true ∧
      t = { s with inp := some { i with pos := 0, log := i.log ++ [.rewind] } } := by
  cases hi : s.inp with
  | none => simp [inRewind, hi] at h
  | some i =>
    cases hr : i.canRewind with
    | false => simp [inRewind, hi, hr] at h
    | true =>
      simp only [inRewind, hi, hr, if_true] at h
      cases h
      exact ⟨i, rfl, hr, by rw [hr]⟩

/-- Everything `OutBits(n, v)` can do. -/
theorem outBits_next {s t : State} {n v : Nat} (h : outBits n v s = .next t) :
    ∃ o, s.out = some o ∧ o.closed = false ∧ o.abandoned = false ∧
      t = { s with out := some { o with bits := o.bits ++ field n v } } := by
  cases ho : s.out with
  | none => simp [outBits, ho] at h
  | some o =>
    simp only [outBits, ho] at h
    split at h
    · cases h
    · rename_i hc
      cases h
      simp only [Bool.or_eq_true, not_or, Bool.not_eq_true] at hc
      exact ⟨o, rfl, hc.1, hc.2, rfl⟩

/-- `OutBits(n, v)` on an open output. -/
theorem outBits_of_open {s : State} {o : OutStream} {n v : Nat} (ho : s.out = some o) (hc : o.closed = false)
    (ha : o.abandoned = false) :
    outBits n v s = .next { s with out := some { o with bits := o.bits ++ field n v } } := by
  simp [outBits, ho, hc, ha]

/-- Everything `OutClose()` can do. -/
theorem outClose_next {s t : State} (h : outClose s = .next t) :
    ∃ o, s.out = some o ∧ o.closed = false ∧ o.abandoned = false ∧
      t = { s with out := some { o with closed := true } } := by
  cases ho : s.out with
  | none => simp [outClose, ho] at h
  | some o =>
    simp only [outClose, ho] at h
    split at h
    · cases h
    · rename_i hc
      cases h
      simp only [Bool.or_eq_true, not_or, Bool.not_eq_true] at hc
      exact ⟨o, rfl, hc.1, hc.2, rfl⟩

/-! ## Commands, errors, reset -/

/-- Everything the write of a legal command can do. -/
theorem startCommand_next {c : Byte} {p : BitVec 4} {s t : State} (h : startCommand c p s = .next t) :
    (s.runState = .busy ∧ t = s) ∨ (s.runState ≠ .busy ∧ t = s.accept c p) := by
  unfold startCommand at h
  split at h <;> cases h <;> simp_all

/-- Everything a `raise` can do. -/
theorem raiseErr_next {e : Err} {s t : State} (h : raiseErr e s = .next t) :
    ∃ o, s.out = some o ∧ o.closed = false ∧ o.abandoned = false ∧
      t = { s with err := e, runState := .error, out := some { o with closed := true } } := by
  obtain ⟨u, hu, ht⟩ := andThen_eq_next.mp h
  obtain ⟨o, ho, hc, ha, rfl⟩ := outClose_next hu
  cases ht
  exact ⟨o, ho, hc, ha, rfl⟩

/-- A `raise` inside a loop is a `raise` after which the loop does not go on. -/
theorem raiseRound_next {e : Err} {s t : State} {more : Bool} (h : raiseRound e s = .next (more, t)) :
    more = false ∧ raiseErr e s = .next t := by
  obtain ⟨u, hu, ht⟩ := andThen_eq_next.mp h
  cases ht
  exact ⟨rfl, hu⟩

/-- Everything the end of a command can do. -/
theorem endCommand_next {s t : State} (h : endCommand s = .next t) :
    ∃ o, s.out = some o ∧ o.closed = false ∧ o.abandoned = false ∧
      t = { s with phase := 0, runState := .done, out := some { o with closed := true } } := by
  obtain ⟨u, hu, ht⟩ := andThen_eq_next.mp h
  obtain ⟨o, ho, hc, ha, rfl⟩ := outClose_next hu
  cases ht
  exact ⟨o, ho, hc, ha, rfl⟩

/-- A reset touches no bit of the output it takes off the port, and does not close it. -/
theorem doReset_output (s : State) :
    s.doReset.detachedOut.map (fun o => (o.bits, o.closed)) =
      (s.out.toList ++ s.detachedOut).map fun o => (o.bits, o.closed) := by
  cases ho : s.out with
  | none => simp [ho]
  | some o => by_cases hb : s.runState = .busy <;> simp [ho, hb]

/-- An abandoned phase leaves the core as a reset leaves it, whatever its outcome was to be. -/
theorem abandon_core (s : State) (k : Nat) (o : Result) :
    ∃ ins outs draws, s.abandon k o =
      { State.reset with detachedIn := ins, detachedOut := outs, host := s.host, draws := draws } :=
  ⟨_, _, _, rfl⟩

/-! ## The traversals and the loops -/

/-- A push changes the stack and its depth only. -/
theorem pushStk_some {s t : State} {i : Nat} (h : s.pushStk i = some t) :
    s.sp < 257 ∧ t = { s with stk := s.stk.setIfInBounds s.sp ⟨i, false⟩, sp := s.sp + 1 } := by
  unfold State.pushStk at h
  split at h
  · rename_i hs
    cases h
    exact ⟨hs, rfl⟩
  · cases h

/-- Leaving finished subtrees changes the stack, and the path registers when they follow. -/
theorem unwind_next {onPath : Bool} {n : Nat} {s t : State} {next : Option Nat}
    (h : unwind onPath n s = .next (next, t)) :
    ∃ stk sp path plen, t = { s with stk := stk, sp := sp, path := path, plen := plen } ∧
      (onPath = false → path = s.path ∧ plen = s.plen) := by
  induction n generalizing s with
  | zero => cases h; exact ⟨s.stk, 0, s.path, s.plen, rfl, fun _ => ⟨rfl, rfl⟩⟩
  | succ n ih =>
    simp only [unwind] at h
    split at h
    · cases h
    · split at h
      · obtain ⟨stk, sp, path, plen, rfl, hp⟩ := ih h
        cases onPath
        · exact ⟨stk, sp, path, plen, rfl, hp⟩
        · exact ⟨stk, sp, path, plen, rfl, nofun⟩
      · split at h
        · cases h
        · cases h
          cases onPath
          · exact ⟨_, _, s.path, s.plen, rfl, fun _ => ⟨rfl, rfl⟩⟩
          · exact ⟨_, _, s.path + 1, s.plen, rfl, by simp⟩

/-- Whatever both visits keep, and does not speak of the stack and the path, a traversal keeps. -/
theorem traverse_keeps {onPath : Bool} {atLeaf : Symbol → State → Result} {atInternal : State → Result}
    (P : State → Prop) (hstk : ∀ s stk sp path plen, P s → P { s with stk := stk, sp := sp, path := path, plen := plen })
    (hleaf : ∀ sym s t, P s → atLeaf sym s = .next t → P t) (hint : ∀ s t, P s → atInternal s = .next t → P t)
    {fuel i : Nat} {s t : State} (h : traverse onPath atLeaf atInternal fuel i s = .next t) (hs : P s) : P t := by
  induction fuel generalizing i s with
  | zero => cases h
  | succ fuel ih =>
    simp only [traverse] at h
    split at h
    · cases h
    · split at h
      · obtain ⟨u, hu, h⟩ := andThen_eq_next.mp h
        obtain ⟨⟨next, v⟩, hv, h⟩ := andThen_eq_next.mp h
        have hPu := hleaf _ _ _ hs hu
        obtain ⟨stk, sp, path, plen, rfl, -⟩ := unwind_next hv
        have hPv := hstk u stk sp path plen hPu
        cases next with
        | none => cases h; exact hPv
        | some j => exact ih h hPv
      · obtain ⟨u, hu, h⟩ := andThen_eq_next.mp h
        have hPu := hint _ _ hs hu
        cases hp : u.pushStk i with
        | none => simp [hp] at h
        | some v =>
          simp only [hp] at h
          obtain ⟨-, rfl⟩ := pushStk_some hp
          cases onPath
          · exact ih h (hstk u _ _ u.path u.plen hPu)
          · exact ih h (hstk u _ _ (2 * u.path) (u.plen + 1) hPu)

/-- Completing subtrees writes the node store and the stack only. -/
theorem closeSubtrees_next {n i : Nat} {s t : State} {root : Option Nat}
    (h : closeSubtrees n i s = .next (root, t)) :
    ∃ nodes stk sp, t = { s with nodes := nodes, stk := stk, sp := sp } := by
  induction n generalizing i s with
  | zero => cases h; exact ⟨s.nodes, s.stk, 0, rfl⟩
  | succ n ih =>
    simp only [closeSubtrees] at h
    split at h
    · cases h
    · split at h
      · obtain ⟨nodes, stk, sp, rfl⟩ := ih h
        exact ⟨nodes, stk, sp, rfl⟩
      · cases h
        exact ⟨s.nodes, _, _, rfl⟩

/-- Completing the finished nodes `es` on top of the stack: the store is `finishNodes`, and what is below goes on with the
last of them, or with `i` itself where there is none. -/
theorem closeSubtrees_finished (es : List StkEntry) {n i : Nat} {s : State} (hdone : ∀ e ∈ es, e.leftDone = true)
    (hstk : ∀ k, k < es.length → s.stk[n + es.length - 1 - k]? = es[k]?) :
    closeSubtrees (n + es.length) i s =
      closeSubtrees n (es.getLast?.elim i StkEntry.node)
        { s with nodes := finishNodes es i s.nodes, sp := if es = [] then s.sp else n } := by
  induction es generalizing i s with
  | nil => rfl
  | cons e es ih =>
    have htop : s.stk[n + es.length]? = some e := by simpa using hstk 0 (by simp)
    have hbelow : ∀ k, k < es.length → s.stk[n + es.length - 1 - k]? = es[k]? := fun k hk => by
      have h := hstk (k + 1) (by simpa using hk)
      rwa [List.length_cons, show n + (es.length + 1) - 1 - (k + 1) = n + es.length - 1 - k by omega] at h
    rw [List.length_cons, ← Nat.add_assoc]
    simp only [closeSubtrees, htop, hdone e List.mem_cons_self, if_true]
    refine (ih (i := e.node) (s := { s.writeNode e.node (internalNode 0 (e.node + 1) i) with sp := n + es.length })
      (fun x hx => hdone x (List.mem_cons_of_mem _ hx)) hbelow).trans ?_
    cases es <;> simp [finishNodes, State.writeNode, List.getLast?_cons]

/-- Everything an internal-node token can do. -/
theorem internalToken_next {s t : State} {more : Bool} (h : internalToken s = .next (more, t)) :
    (513 ≤ s.nodeCount ∧ more = false ∧ raiseErr .treeOverflow s = .next t) ∨
      (s.nodeCount < 513 ∧ more = true ∧ t = ((s.pushStk s.nodeCount).getD s).takeIndex) := by
  unfold internalToken at h
  split at h
  · rename_i hc
    exact .inl ⟨hc, raiseRound_next h⟩
  · rename_i hc
    cases h
    exact .inr ⟨Nat.lt_of_not_le hc, rfl, rfl⟩

/-- What the count loop changes: the counts, the input's position, the draws, and the phase or the error state. -/
theorem countLoop_next {maxIn fuel : Nat} {s t : State} (h : countLoop maxIn fuel s = .next t) :
    ∃ freq nIn inp draws,
      t = { s with freq := freq, nIn := nIn, inp := inp, draws := draws, phase := 2 } ∨
        raiseErr .countOverflow { s with freq := freq, nIn := nIn, inp := inp, draws := draws } = .next t := by
  induction fuel generalizing s with
  | zero => cases h
  | succ fuel ih =>
    simp only [countLoop] at h
    obtain ⟨⟨v, u⟩, hu, h⟩ := andThen_eq_next.mp h
    obtain ⟨-, ⟨-, rfl, rfl⟩ | ⟨-, rfl, rfl⟩⟩ := inBits_next hu
    · simp only at h
      split at h
      · exact ⟨s.freq, s.nIn, _, s.draws, .inr h⟩
      · obtain ⟨freq, nIn, inp, draws, h⟩ := ih h
        exact ⟨freq, nIn, inp, draws, h⟩
    · cases h
      exact ⟨_, s.nIn, _, _, .inl rfl⟩

/-- One round of the walk changes the cursor and, at a leaf, the output or the phase. -/
theorem walkBit_next {b more : Bool} {s t : State} (h : walkBit b s = .next (more, t)) :
    (more = true ∧ ∃ cur, t = { s with cur := cur }) ∨
      (more = false ∧ ∃ cur, t = { s with cur := cur, phase := 12 }) ∨
      (more = true ∧ ∃ cur v u, outBits 8 v { s with cur := cur } = .next u ∧ t = { u with cur := u.root }) := by
  unfold walkBit at h
  split at h
  · cases h
  · simp only at h
    split at h
    · cases h
    · split at h
      · split at h
        · cases h
          exact .inr (.inl ⟨rfl, _, rfl⟩)
        · obtain ⟨u, hu, h⟩ := andThen_eq_next.mp h
          cases h
          exact .inr (.inr ⟨rfl, _, _, u, hu, rfl⟩)
      · cases h
        exact .inl ⟨rfl, _, rfl⟩

/-- Whatever a round keeps, and the reading of IN and a `raise` keep, the walk keeps. -/
theorem walkLoop_keeps (P : State → Prop) (hin : ∀ s inp draws, P s → P { s with inp := inp, draws := draws })
    (hraise : ∀ s t, P s → raiseErr .noEos s = .next t → P t)
    (hbit : ∀ b more s t, P s → walkBit b s = .next (more, t) → P t) {fuel : Nat} {s t : State}
    (h : walkLoop fuel s = .next t) (hs : P s) : P t := by
  induction fuel generalizing s with
  | zero => cases h
  | succ fuel ih =>
    simp only [walkLoop] at h
    obtain ⟨⟨v, u⟩, hu, h⟩ := andThen_eq_next.mp h
    obtain ⟨-, ⟨-, rfl, rfl⟩ | ⟨-, rfl, rfl⟩⟩ := inBits_next hu
    · obtain ⟨⟨more, w⟩, hw, h⟩ := andThen_eq_next.mp h
      have hPw := hbit _ _ _ _ (hin s _ s.draws hs) hw
      cases more
      · cases h; exact hPw
      · exact ih h hPw
    · exact hraise _ _ (hin s _ _ hs) h

/-- Whatever a written codeword keeps, and the reading of IN, the end of the scan and a `raise` keep, the payload loop
keeps. -/
theorem payloadLoop_keeps (P : State → Prop) (hin : ∀ s inp draws, P s → P { s with inp := inp, draws := draws })
    (hend : ∀ s : State, P s → P (s.setPhase 7)) (hraise : ∀ s t, P s → raiseErr .noCode s = .next t → P t)
    (hout : ∀ n v s t, P s → outBits n v s = .next t → P t) {fuel : Nat} {s t : State}
    (h : payloadLoop fuel s = .next t) (hs : P s) : P t := by
  induction fuel generalizing s with
  | zero => cases h
  | succ fuel ih =>
    simp only [payloadLoop] at h
    obtain ⟨⟨v, u⟩, hu, h⟩ := andThen_eq_next.mp h
    obtain ⟨-, ⟨-, rfl, rfl⟩ | ⟨-, rfl, rfl⟩⟩ := inBits_next hu
    · simp only at h
      split at h
      · exact hraise _ _ (hin s _ s.draws hs) h
      · obtain ⟨w, hw, h⟩ := andThen_eq_next.mp h
        exact ih h (hout _ _ _ _ (hin s _ s.draws hs) hw)
    · cases h
      exact hend _ (hin s _ _ hs)

/-- Whatever the two tokens, the taking of an index, the reading of IN and a `raise` keep, the header loop keeps. -/
theorem headerLoop_keeps (P : State → Prop) (hin : ∀ s inp draws, P s → P { s with inp := inp, draws := draws })
    (hraise : ∀ e s t, P s → raiseErr e s = .next t → P t) (htake : ∀ s : State, P s → P s.takeIndex)
    (hinternal : ∀ more s t, P s → internalToken s = .next (more, t) → P t)
    (hleaf : ∀ sym more s t, P s → leafToken sym s = .next (more, t) → P t) {fuel : Nat} {s t : State}
    (h : headerLoop fuel s = .next t) (hs : P s) : P t := by
  induction fuel generalizing s with
  | zero => cases h
  | succ fuel ih =>
    simp only [headerLoop] at h
    obtain ⟨⟨v, u⟩, hu, h⟩ := andThen_eq_next.mp h
    obtain ⟨-, ⟨-, rfl, rfl⟩ | ⟨-, rfl, rfl⟩⟩ := inBits_next hu
    · have hPu : P (s.advance 1) := hin s _ s.draws hs
      simp only at h
      split at h
      · exact hraise _ _ _ hPu h
      · split at h
        · obtain ⟨⟨more, w⟩, hw, h⟩ := andThen_eq_next.mp h
          have hPw := hinternal _ _ _ hPu hw
          cases more
          · cases h; exact hPw
          · exact ih h hPw
        · obtain ⟨⟨v, w⟩, hw, h⟩ := andThen_eq_next.mp h
          obtain ⟨-, ⟨-, rfl, rfl⟩ | ⟨-, rfl, rfl⟩⟩ := inBits_next hw
          · obtain ⟨⟨more, x⟩, hx, h⟩ := andThen_eq_next.mp h
            have hPx := hleaf _ _ _ _ (hin _ _ (s.advance 1).draws hPu) hx
            cases more
            · cases h; exact hPx
            · exact ih h hPx
          · exact hraise _ _ _ (htake _ (hin _ _ _ hPu)) h
    · exact hraise _ _ _ (hin s _ _ hs) h

end Sys2Proof.Machine
end

