-- ==== Sys2Proof/Laws/PerInstr.lean ====
section
/-! SUPPORT. One statement per instruction: the words of a well-formed instruction have the width its row of
spec/opcode_table.json gives it. -/

namespace Sys2Proof.Laws

/-- The least and the greatest number of bits a row of the table gives. -/
def EncodeWidth.width : Instr → Nat × Nat
  | .compress | .decompress => (8, 8)
  | .cFreq | .cBuild | .cCodes | .cMagic | .cHeader | .cPayload | .cTerm | .cClose => (4, 4)
  | .dMagic | .dHeader | .dWalk | .dClose => (4, 4)
  | .magic _ => (32, 32)
  | .nodeInternal => (1, 1)
  | .nodeLeaf _ => (10, 10)
  | .codeword _ | .terminator _ => (1, 256)
  | .pad _ => (0, 7)

/-- The words of `i` are as wide as its row says. -/
def EncodeWidth.Statement (i : Instr) : Prop :=
  WellFormed i = true →
    (EncodeWidth.width i).1 ≤ (encode i).length ∧ (encode i).length ≤ (EncodeWidth.width i).2

theorem EncodeWidth.compress : EncodeWidth.Statement .compress := fun _ => by decide
theorem EncodeWidth.decompress : EncodeWidth.Statement .decompress := fun _ => by decide
theorem EncodeWidth.cFreq : EncodeWidth.Statement .cFreq := fun _ => by decide
theorem EncodeWidth.cBuild : EncodeWidth.Statement .cBuild := fun _ => by decide
theorem EncodeWidth.cCodes : EncodeWidth.Statement .cCodes := fun _ => by decide
theorem EncodeWidth.cMagic : EncodeWidth.Statement .cMagic := fun _ => by decide
theorem EncodeWidth.cHeader : EncodeWidth.Statement .cHeader := fun _ => by decide
theorem EncodeWidth.cPayload : EncodeWidth.Statement .cPayload := fun _ => by decide
theorem EncodeWidth.cTerm : EncodeWidth.Statement .cTerm := fun _ => by decide
theorem EncodeWidth.cClose : EncodeWidth.Statement .cClose := fun _ => by decide
theorem EncodeWidth.dMagic : EncodeWidth.Statement .dMagic := fun _ => by decide
theorem EncodeWidth.dHeader : EncodeWidth.Statement .dHeader := fun _ => by decide
theorem EncodeWidth.dWalk : EncodeWidth.Statement .dWalk := fun _ => by decide
theorem EncodeWidth.dClose : EncodeWidth.Statement .dClose := fun _ => by decide

theorem EncodeWidth.magic (m : BitVec 32) : EncodeWidth.Statement (.magic m) := fun _ => by
  simp [width, encode, field_length]

theorem EncodeWidth.nodeInternal : EncodeWidth.Statement .nodeInternal := fun _ => by decide

theorem EncodeWidth.nodeLeaf (sym : Symbol) : EncodeWidth.Statement (.nodeLeaf sym) := fun _ => by
  simp [width, encode, field_length]

theorem EncodeWidth.codeword (c : Bits) : EncodeWidth.Statement (.codeword c) := fun h => by
  simp only [WellFormed, Bool.and_eq_true, decide_eq_true_eq] at h
  exact h

theorem EncodeWidth.terminator (c : Bits) : EncodeWidth.Statement (.terminator c) := fun h => by
  simp only [WellFormed, Bool.and_eq_true, decide_eq_true_eq] at h
  exact h

theorem EncodeWidth.pad (p : Bits) : EncodeWidth.Statement (.pad p) := fun h => by
  simpa [WellFormed, width, encode] using h

end Sys2Proof.Laws
end

