-- ==== Sys2Proof/Tests/Slice0.lean ====
section
/-! SUPPORT. The model's own tests: ill-formed terms, words written out from the encodings, one step each on values from
spec/95_test_vectors.md and the rules' own examples, and a witness for the hypotheses of each statement. -/

-- Many small kernel evaluations: one after another, so that they do not wait for each other in parallel threads.
set_option Elab.async false

namespace Sys2Proof.Tests

open Sys2Proof.Machine

/-! ## Ill-formed instructions are refused (R99, R100, R102, R103, R104) -/

theorem test_leaf_257_ill_formed : WellFormed (.nodeLeaf 257) = false := by decide
theorem test_leaf_256_well_formed : WellFormed (.nodeLeaf 256) = true := by decide
theorem test_empty_codeword_ill_formed : WellFormed (.codeword []) = false := by decide
theorem test_long_codeword_ill_formed : WellFormed (.codeword (List.replicate 257 true)) = false := by decide +kernel
theorem test_codeword_256_well_formed : WellFormed (.codeword (List.replicate 256 true)) = true := by decide +kernel
theorem test_empty_terminator_ill_formed : WellFormed (.terminator []) = false := by decide
theorem test_long_terminator_ill_formed : WellFormed (.terminator (List.replicate 257 true)) = false := by
  decide +kernel
theorem test_pad_8_ill_formed : WellFormed (.pad (List.replicate 8 false)) = false := by decide

/-! ## Words written out from the spec's encodings -/

/-- Bits written as 0 and 1. -/
def bits (l : List Nat) : Bits := l.map fun x => decide (x = 1)

/-- The trie `I L(97) I L(98) L(256)` of the examples of R139, R151, R161 (V4), with its weights. -/
def trieV4 : Trie := .internal 4 (.leaf 97 2) (.internal 2 (.leaf 98 1) (.leaf 256 1))

/-- What a decoder reads, and how many bits it leaves. -/
def reads (f : Format) (l : List Nat) : Option (Instr × Nat) :=
  match decode f (bits l) with
  | .ok (i, rest) => some (i, rest.length)
  | .error _ => none

theorem test_decode_compress : reads .cmd [0, 0, 0, 0, 0, 0, 0, 1] = some (.compress, 0) := by decide
theorem test_decode_decompress : reads .cmd [0, 0, 0, 0, 0, 0, 1, 0] = some (.decompress, 0) := by decide
theorem test_decode_illegal_command : decode .cmd (bits [0, 0, 0, 0, 0, 1, 1, 1]) = .error .illegalCommand := by decide
theorem test_decode_cFreq : reads .phase [0, 0, 0, 1] = some (.cFreq, 0) := by decide
theorem test_decode_cBuild : reads .phase [0, 0, 1, 0] = some (.cBuild, 0) := by decide
theorem test_decode_cCodes : reads .phase [0, 0, 1, 1] = some (.cCodes, 0) := by decide
theorem test_decode_cMagic : reads .phase [0, 1, 0, 0] = some (.cMagic, 0) := by decide
theorem test_decode_cHeader : reads .phase [0, 1, 0, 1] = some (.cHeader, 0) := by decide
theorem test_decode_cPayload : reads .phase [0, 1, 1, 0] = some (.cPayload, 0) := by decide
theorem test_decode_cTerm : reads .phase [0, 1, 1, 1] = some (.cTerm, 0) := by decide
theorem test_decode_cClose : reads .phase [1, 0, 0, 0] = some (.cClose, 0) := by decide
theorem test_decode_dMagic : reads .phase [1, 0, 0, 1] = some (.dMagic, 0) := by decide
theorem test_decode_dHeader : reads .phase [1, 0, 1, 0] = some (.dHeader, 0) := by decide
theorem test_decode_dWalk : reads .phase [1, 0, 1, 1] = some (.dWalk, 0) := by decide
theorem test_decode_dClose : reads .phase [1, 1, 0, 0] = some (.dClose, 0) := by decide
theorem test_decode_no_phase : decode .phase (bits [0, 0, 0, 0]) = .error .noPhase := by decide
theorem test_decode_reserved_phase : decode .phase (bits [1, 1, 0, 1]) = .error .reservedPhase := by decide

/-- The example magic of R182, `FA CE 82 01`, and the first bit after it. -/
theorem test_decode_magic :
    reads .magic ([1, 1, 1, 1, 1, 0, 1, 0] ++ [1, 1, 0, 0, 1, 1, 1, 0] ++ [1, 0, 0, 0, 0, 0, 1, 0] ++
      [0, 0, 0, 0, 0, 0, 0, 1] ++ [0]) = some (.magic 0xFACE8201, 1) := by decide

theorem test_decode_nodeInternal : reads .tree [0, 1] = some (.nodeInternal, 1) := by decide
theorem test_decode_nodeLeaf : reads .tree [1, 0, 0, 1, 1, 0, 0, 0, 0, 1, 0] = some (.nodeLeaf 97, 1) := by decide
theorem test_decode_leaf_256 : reads .tree [1, 1, 0, 0, 0, 0, 0, 0, 0, 0] = some (.nodeLeaf 256, 0) := by decide

/-- V12a: 257 is no Symbol. -/
theorem test_decode_reserved_symbol :
    decode .tree (bits [1, 1, 0, 0, 0, 0, 0, 0, 0, 1]) = .error .reservedSymbol := by decide

theorem test_decode_short_leaf : decode .tree (bits [1, 0, 0, 1]) = .error .truncated := by decide

/-- V4: 98 is `10`, the sentinel is `11`. -/
theorem test_decode_codeword : reads (.payload trieV4) [1, 0, 1] = some (.codeword [true, false], 1) := by decide
theorem test_decode_terminator : reads (.payload trieV4) [1, 1, 0] = some (.terminator [true, true], 1) := by decide
theorem test_decode_pad : reads .pad [0, 0] = some (.pad [false, false], 0) := by decide

theorem test_encode_leaf : encode (.nodeLeaf 98) = bits [1, 0, 0, 1, 1, 0, 0, 0, 1, 0] := by decide

/-- R161's example: the tree header of V4. -/
theorem test_serBits_V4 :
    serBits trieV4 = bits ([0, 1, 0, 0, 1, 1, 0, 0, 0, 0, 1] ++ [0, 1, 0, 0, 1, 1, 0, 0, 0, 1, 0] ++
      [1, 1, 0, 0, 0, 0, 0, 0, 0, 0]) := by decide

/-- R161's example: those 32 bits are the bytes `4C 29 8B 00` (R67). -/
theorem test_pack_V4 : packBytes (serBits trieV4) = [0x4C, 0x29, 0x8B, 0x00] := by decide

/-! ## Rows of the table, and the first step after reset -/

/-- The outcome is a next state that meets the test. -/
def after (o : Host.Outcome State Fault Refusal) (p : State → Bool) : Bool :=
  match o with
  | .next t => p t
  | .fault _ => false
  | .refused _ => false

theorem test_table_words :
    (List.range 13).map (fun p => decodeTableWord 4 p) =
      [none, some .cFreq, some .cBuild, some .cCodes, some .cMagic, some .cHeader, some .cPayload, some .cTerm,
        some .cClose, some .dMagic, some .dHeader, some .dWalk, some .dClose] := by decide

theorem test_table_commands :
    decodeTableWord 8 1 = some .compress ∧ decodeTableWord 8 2 = some .decompress ∧ decodeTableWord 8 13 = none := by
  decide

theorem test_table_tokens :
    decodeTableWord 1 0 = some .nodeInternal ∧ decodeTableWord 10 0x261 = some (.nodeLeaf 97) ∧
      decodeTableWord 32 0xFACE8201 = some (.magic 0xFACE8201) := by decide

/-- Every command and phase runs as the first instruction after reset. -/
theorem test_first_steps :
    ((List.range 12).all fun p => after (step (State.reset.withFetchWord 4 (p + 1))) fun _ => true) = true ∧
      after (step (State.reset.withFetchWord 8 1)) (fun t => t.phase = 1) = true ∧
      after (step (State.reset.withFetchWord 8 2)) (fun t => t.phase = 9) = true := by decide +kernel

/-- An illegal command is no instruction; the write is reported (P6). -/
theorem test_first_step_illegal :
    after (step (State.reset.withFetchWord 8 0x0D)) (fun t => t.err = .badCmd && t.statusByte = 3) = true := by
  decide +kernel

/-! ## One step of each instruction -/

/-- A state with streams: what IN delivers, and an open output holding some bits. -/
def withStreams (input written : Bits) : State :=
  { State.reset with
    inp := some { data := input, pos := 0, canRewind := true, log := [] }
    out := some { bits := written, closed := false, abandoned := false } }

/-- The core in the middle of a command. -/
def inPhase (c : Byte) (p : BitVec 4) (input : Bits) : State :=
  { withStreams input [] with runState := .busy, cmd := c, phase := p }

/-- The node store, code table and counts filled from lists. -/
def putNodes (l : List Node) (root : Nat) (s : State) : State :=
  { l.zipIdx.foldl (fun s n => s.writeNode n.2 n.1) s with nodeCount := l.length, root := root }

def putCodes (l : List (Nat × CodeEntry)) (s : State) : State := l.foldl (fun s c => s.writeCode c.1 c.2) s

def putCounts (l : List (Nat × Nat)) (s : State) : State := l.foldl (fun s c => s.writeFreq c.1 c.2) s

/-- The encoder's store of V4: leaves 97, 98, 256, then `I`(1, 2), then `I`(0, 3). -/
def storeV4 : List Node :=
  [leafNode 97 2, leafNode 98 1, leafNode 256 1, internalNode 2 1 2, internalNode 4 0 3]

/-- The code table of V4: 97 is `0`, 98 is `10`, 256 is `11`. -/
def codesV4 : List (Nat × CodeEntry) := [(97, ⟨1, 0⟩), (98, ⟨2, 2⟩), (256, ⟨2, 3⟩)]

/-- P6: accepted from ERROR, and the earlier error code is cleared (R180). -/
theorem test_compress_clears_error :
    after (exec .compress { State.reset with runState := .error, err := .badCmd, cmd := 7 })
      (fun t => t.cmd = 1 && t.err = .none && t.runState = .busy && t.phase = 1) = true := by decide +kernel

theorem test_compress_ignored_while_busy :
    after (exec .compress (inPhase 2 11 [])) (fun t => t.cmd = 2 && t.phase = 11) = true := by decide +kernel

theorem test_decompress_from_done :
    after (exec .decompress { State.reset with runState := .done, cmd := 1 })
      (fun t => t.cmd = 2 && t.runState = .busy && t.phase = 9) = true := by decide +kernel

/-- V1: `61 61 62`. -/
theorem test_cFreq_V1 :
    after (exec .cFreq (inPhase 1 1 (unpackBytes [0x61, 0x61, 0x62])))
      (fun t => t.readFreq 97 = 2 && t.readFreq 98 = 1 && t.readFreq 256 = 1 && t.readFreq 0 = 0 && t.nIn = 3 &&
        t.phase = 2) = true := by decide +kernel

/-- V3, with `MAX_IN = 2`: the third byte raises, with nothing written. -/
theorem test_cFreq_overflow_V3 :
    after (countLoop 2 9 (inPhase 1 1 (unpackBytes [0x61, 0x62, 0x63])))
      (fun t => t.err = .countOverflow && t.runState = .error && t.phase = 1 && t.nIn = 2 &&
        t.out = some ⟨[], true, false⟩) = true := by decide +kernel

/-- V6: of weights 2, 2, 2 the two leaves are merged before the internal node. -/
theorem test_cBuild_V6 :
    after (exec .cBuild (putCounts [(97, 2), (98, 2), (99, 1), (256, 1)] (inPhase 1 2 [])))
      (fun t => t.root = 6 && t.nodeCount = 7 && t.phase = 3 &&
        t.trie = some (.internal 6 (.internal 2 (.leaf 99 1) (.leaf 256 1))
          (.internal 4 (.leaf 97 2) (.leaf 98 2)))) = true := by decide +kernel

/-- V8: the sole leaf beside the phantom leaf. -/
theorem test_cBuild_V8 :
    after (exec .cBuild (putCounts [(256, 1)] (inPhase 1 2 [])))
      (fun t => t.root = 2 && t.nodeCount = 3 &&
        t.trie = some (.internal 1 (.leaf 256 1) (.leaf 0 0))) = true := by decide +kernel

/-- R28: the `LIVE` bits of a larger trie built earlier are gone, and the root's is the one bit set. -/
theorem test_cBuild_live :
    after (exec .cBuild { putCounts [(97, 2), (256, 1)] (inPhase 1 2 []) with live := Vector.replicate 513 true })
      (fun t => t.root = 2 && t.live = (Vector.replicate 513 false).set 2 true) = true := by decide +kernel

/-- V4: 97 `0`, 98 `10`, 256 `11`, every other `len` 0. -/
theorem test_cCodes_V4 :
    after (exec .cCodes (putNodes storeV4 4 (inPhase 1 3 [])))
      (fun t => t.readCode 97 = ⟨1, 0⟩ && t.readCode 98 = ⟨2, 2⟩ && t.readCode 256 = ⟨2, 3⟩ && t.readCode 0 = ⟨0, 0⟩ &&
        t.phase = 4) = true := by decide +kernel

/-- R182: the first 32 bits of the file. -/
theorem test_cMagic :
    exec .cMagic (inPhase 1 4 []) =
      .next { inPhase 1 5 [] with out := some ⟨field 32 Config.magic.toNat, false, false⟩ } := rfl

/-- V4's header. -/
theorem test_cHeader_V4 :
    after (exec .cHeader (putNodes storeV4 4 (inPhase 1 5 [])))
      (fun t => t.out = some ⟨serBits trieV4, false, false⟩ && t.phase = 6 && t.sp = 0) = true := by decide +kernel

/-- V4's payload, `0 0 10`. -/
theorem test_cPayload_V4 :
    after (exec .cPayload (putCodes codesV4 (inPhase 1 6 (unpackBytes [0x61, 0x61, 0x62]))))
      (fun t => t.out = some ⟨bits [0, 0, 1, 0], false, false⟩ && t.phase = 7) = true := by decide +kernel

/-- A byte of the second scan that has no code (R184): the codeword before it stays, the output is closed. -/
theorem test_cPayload_no_code :
    after (exec .cPayload (putCodes codesV4 (inPhase 1 6 (unpackBytes [0x61, 0x63]))))
      (fun t => t.out = some ⟨[false], true, false⟩ && t.phase = 6 && t.err = .noCode) = true := by decide +kernel

/-- V4's terminator, `11`. -/
theorem test_cTerm_V4 :
    after (exec .cTerm (putCodes codesV4 (inPhase 1 7 [])))
      (fun t => t.out = some ⟨[true, true], false, false⟩ && t.phase = 8) = true := by decide +kernel

/-- R186's example: 70 bits, 2 padding bits, 9 bytes. -/
theorem test_cClose_pads :
    after (exec .cClose { inPhase 1 8 [] with out := some ⟨List.replicate 70 true, false, false⟩ })
      (fun t => t.runState = .done && t.phase = 0 &&
        t.out.elim false (fun o => o.closed && o.file.length = 9 && o.file.getLast? = some 0xFC)) = true := by
  decide +kernel

/-- V13c: 24 bits are no magic. -/
theorem test_dMagic_short :
    after (exec .dMagic (inPhase 2 9 (unpackBytes [0xFA, 0xCE, 0x82])))
      (fun t => t.err = .badMagic && t.phase = 9 && t.out = some ⟨[], true, false⟩) = true := by decide +kernel

/-- R164's example. -/
theorem test_dHeader_V4 :
    after (exec .dHeader (inPhase 2 10 (serBits trieV4)))
      (fun t => t.nodeCount = 5 && t.root = 0 && t.phase = 11 && t.readNode 0 = some (internalNode 0 1 2) &&
        t.readNode 2 = some (internalNode 0 3 4) && t.readNode 4 = some (leafNode 256 0)) = true := by decide +kernel

/-- V11b: the header of V4 cut after 17 bits. -/
theorem test_dHeader_V11b :
    after (exec .dHeader (inPhase 2 10 ((serBits trieV4).take 17)))
      (fun t => t.err = .truncHeader && t.phase = 10 && t.out = some ⟨[], true, false⟩) = true := by decide +kernel

/-- R203's example: `0 0 10 11`, and a bit after the terminator that is not read. -/
theorem test_dWalk_V4 :
    after (exec .dWalk (putNodes storeV4 4 (inPhase 2 11 (bits [0, 0, 1, 0, 1, 1, 0]))))
      (fun t => t.out = some ⟨unpackBytes [0x61, 0x61, 0x62], false, false⟩ && t.phase = 12 &&
        t.inRest.length = 1) = true := by decide +kernel

/-- V17: the payload cut after `0 0 1`. -/
theorem test_dWalk_V17 :
    after (exec .dWalk (putNodes storeV4 4 (inPhase 2 11 (bits [0, 0, 1]))))
      (fun t => t.out = some ⟨unpackBytes [0x61, 0x61], true, false⟩ && t.phase = 11 && t.err = .noEos) = true := by
  decide +kernel

/-- R206's example. -/
theorem test_dClose :
    after (exec .dClose { inPhase 2 12 [] with out := some ⟨unpackBytes [0x61, 0x61, 0x62], false, false⟩ })
      (fun t => t.runState = .done && t.out.elim false fun o => o.file = [0x61, 0x61, 0x62]) = true := by decide +kernel

theorem test_magic_token :
    exec (.magic Config.magic) (inPhase 2 9 []) = .next (inPhase 2 10 []) := by
  show execMagic Config.magic _ = _
  unfold execMagic
  rw [if_pos rfl]
  rfl

theorem test_nodeInternal :
    after (exec .nodeInternal (inPhase 2 10 []))
      (fun t => t.nodeCount = 1 && t.sp = 1 && t.stk[0]? = some ⟨0, false⟩ && t.phase = 10) = true := by decide +kernel

/-- V12b: 511 is no Symbol. -/
theorem test_nodeLeaf_511 :
    after (exec (.nodeLeaf 511) { inPhase 2 10 [] with nodeCount := 2, sp := 1 })
      (fun t => t.err = .badSymbol && t.runState = .error && t.phase = 10) = true := by decide +kernel

theorem test_nodeLeaf_left :
    after (exec (.nodeLeaf 97) { inPhase 2 10 [] with nodeCount := 1, sp := 1 })
      (fun t => t.nodeCount = 2 && t.sp = 1 && t.stk[0]? = some ⟨0, true⟩ && t.readNode 1 = some (leafNode 97 0)) =
      true := by decide +kernel

/-- The last token of V4's header, at stack `0` (right), `2` (right): both nodes are written as in R164's example. -/
theorem test_nodeLeaf_cascade :
    after (exec (.nodeLeaf 256)
        { inPhase 2 10 [] with nodeCount := 4, sp := 2, stk := (Vector.replicate 257 ⟨0, true⟩).set 1 ⟨2, true⟩ })
      (fun t => t.nodeCount = 5 && t.sp = 0 && t.root = 0 && t.phase = 11 && t.readNode 4 = some (leafNode 256 0) &&
        t.readNode 2 = some (internalNode 0 3 4) && t.readNode 0 = some (internalNode 0 1 2)) = true := by decide +kernel

theorem test_codeword_V4 :
    after (exec (.codeword [true, false]) { putNodes storeV4 4 (inPhase 2 11 []) with cur := 4 })
      (fun t => t.out = some ⟨byteBits 0x62, false, false⟩ && t.cur = 4 && t.phase = 11) = true := by decide +kernel

theorem test_terminator_V4 :
    after (exec (.terminator [true, true]) { putNodes storeV4 4 (inPhase 2 11 []) with cur := 4 })
      (fun t => t.out = some ⟨[], false, false⟩ && t.cur = 2 && t.phase = 12) = true := by decide +kernel

theorem test_pad : exec (.pad [true, true, true, true]) (inPhase 2 12 []) = .next (inPhase 2 12 []) := rfl

/-! ## The host -/

/-- `STATE=ERROR ERR=3 PHASE=11` (P5) as the host reads it. -/
theorem test_status_byte :
    ({ State.reset with runState := .error, err := .noEos, phase := 11 } : State).hostRead 0x4 = some 0xB3 ∧
      ({ State.reset with runState := .error, err := .noEos, phase := 11 } : State).hostRead 0x8 = some 0x03 := by
  decide +kernel

/-- A reset inside `C_TERM` after one of its two bits (R261), with no stream attached any more (R37). -/
theorem test_reset_inside_cTerm :
    after (step { putCodes codesV4 (inPhase 1 7 []) with host := [.resetDuring 1] })
      (fun t => t.detachedOut = [⟨[true], false, true⟩] && t.inp = none && t.out = none && t.runState = .idle &&
        t.phase = 0) = true := by decide +kernel

/-- R37: a phase after a reset finds no stream until the host has attached one (R262). -/
theorem test_no_stream_after_reset :
    after (step { inPhase 1 4 [] with host := [.reset] })
      (fun t => exec .cMagic t matches .refused .noOutputStream) = true := by decide +kernel

theorem test_attach :
    after (step { State.reset with host := [.attach [true, false] 1 false] })
      (fun t => t.inp = some ⟨[true, false], 1, false, []⟩ && t.out = some ⟨[], false, false⟩) = true := by
  decide +kernel

theorem test_attach_while_busy :
    step { inPhase 1 1 [] with host := [.attach [] 0 true] } = .refused .streamTouchedWhileBusy := rfl

end Sys2Proof.Tests
end

