-- ==== Sys2Proof/Tests/Witnesses.lean ====
section
/-! SUPPORT. For each statement with hypotheses a concrete state and operands that meet all of them, one for each of its
clauses and at the boundary of its range where it has one. -/

-- Many small kernel evaluations: one after another, so that they do not wait for each other in parallel threads.
set_option Elab.async false

namespace Sys2Proof.Tests

open Sys2Proof.Machine

/-- A BUSY core with a host event to come. -/
def withHost (h : List HostEvent) (s : State) : State := { s with host := h }

/-- An open empty output and a byte input, between commands, with a command to come. -/
def ready (c : Byte) (input : Bits) : State := withHost [.write 0x0 c] (withStreams input [])

theorem witness_StepRunsTheDecodedInstruction :
    ((inPhase 2 12 []).host = [] ∧ (inPhase 2 12 []).runState = .busy ∧ decodePhase (inPhase 2 12 []).phase = .ok .dClose) ∧
    ((withHost [.run] (inPhase 1 1 [])).host = [.run] ∧ (withHost [.run] (inPhase 1 1 [])).runState = .busy ∧
      decodePhase (withHost [.run] (inPhase 1 1 [])).phase = .ok .cFreq) ∧
    ((ready 0x02 []).host = [.write 0x0 0x02] ∧ decodeCmd 0x02 = .ok .decompress) ∧
    (State.reset.host = [] ∧ State.reset.runState ≠ .busy) := by decide +kernel

theorem witness_HeaderTokens_magic :
    ∃ j rest m, (inPhase 2 9 (field 32 0xFACE8201)).inp = some j ∧
      decodeMagic (inPhase 2 9 (field 32 0xFACE8201)).inRest = .ok (.magic m, rest) :=
  ⟨⟨field 32 0xFACE8201, 0, true, []⟩, [], 0xFACE8201, rfl, by decide +kernel⟩

theorem witness_HeaderTokens_internal :
    ∃ j rest, ({ inPhase 2 10 [false] with nodeCount := 512 } : State).inp = some j ∧
      ({ inPhase 2 10 [false] with nodeCount := 512 } : State).nodeCount < 513 ∧
      decodeTree ({ inPhase 2 10 [false] with nodeCount := 512 } : State).inRest = .ok (.nodeInternal, rest) :=
  ⟨⟨[false], 0, true, []⟩, [], rfl, by decide +kernel, by decide +kernel⟩

theorem witness_HeaderTokens_leaf :
    ∃ j rest, ({ inPhase 2 10 (true :: field 9 256) with nodeCount := 512 } : State).inp = some j ∧
      ({ inPhase 2 10 (true :: field 9 256) with nodeCount := 512 } : State).nodeCount < 513 ∧
      decodeTree ({ inPhase 2 10 (true :: field 9 256) with nodeCount := 512 } : State).inRest =
        .ok (.nodeLeaf 256, rest) :=
  ⟨⟨true :: field 9 256, 0, true, []⟩, [], rfl, by decide +kernel, by decide +kernel⟩

/-- The walk's state over the store of V4: the cursor at the root. -/
def walking (input : Bits) : State := { putNodes storeV4 4 (inPhase 2 11 input) with cur := 4 }

theorem witness_walking_inp (input : Bits) : (walking input).inp = some ⟨input, 0, true, []⟩ := rfl

theorem witness_PayloadTokens_codeword :
    (walking [true, false]).inp = some ⟨[true, false], 0, true, []⟩ ∧ (walking [true, false]).trie = some trieV4 ∧
      (walking [true, false]).cur = (walking [true, false]).root ∧
      decodePayload trieV4 (walking [true, false]).inRest = .ok (.codeword [true, false], []) := by decide +kernel

theorem witness_PayloadTokens_terminator :
    (walking [true, true]).inp = some ⟨[true, true], 0, true, []⟩ ∧ (walking [true, true]).trie = some trieV4 ∧
      (walking [true, true]).cur = (walking [true, true]).root ∧
      decodePayload trieV4 (walking [true, true]).inRest = .ok (.terminator [true, true], []) := by decide +kernel

theorem witness_DecodeInvertsEncode :
    WellFormed (.nodeLeaf 256) = true ∧ WellFormed (.magic 0xFFFFFFFF) = true ∧
      (WellFormed (.codeword [true, false]) = true ∧ ((98 : Symbol) ≠ Config.eosSym ∧ ((98 : Symbol), [true, false]) ∈ trieV4.paths)) ∧
      (WellFormed (.terminator [true, true]) = true ∧ (Config.eosSym, [true, true]) ∈ trieV4.paths) ∧
      WellFormed (.pad (List.replicate 7 true)) = true := by decide +kernel

theorem witness_FieldAndValueAreInverse : 8 < 9 ∧ 511 < 2 ^ 9 := by decide

theorem witness_HostReads_other_offset : (0x1 : Nat) ≠ 0x0 ∧ (0x1 : Nat) ≠ 0x4 ∧ (0x1 : Nat) ≠ 0x8 := by decide

theorem witness_OtherHostAccesses :
    (withHost [.write 0x4 0xFF] State.reset).host = [.write 0x4 0xFF] ∧
      (withHost [.write 0x8 0xFF] State.reset).host = [.write 0x8 0xFF] ∧
      (withHost [.read 0x0] State.reset).host = [.read 0x0] ∧ (withHost [.read 0x9] State.reset).host = [.read 0x9] ∧
      (withHost [.write 0x1 0x01] State.reset).host = [.write 0x1 0x01] := by decide +kernel

theorem witness_CommandWriteWhileBusyIsIgnored :
    (withHost [.write 0x0 0x01] (inPhase 2 11 [])).runState = .busy ∧
      (withHost [.write 0x0 0x01] (inPhase 2 11 [])).host = [.write 0x0 0x01] ∧
      (withHost [.write 0x0 0x07] (inPhase 2 11 [])).host = [.write 0x0 0x07] := by decide +kernel

theorem witness_CommandsAreAccepted :
    State.reset.runState ≠ .busy ∧ ({ State.reset with runState := .error } : State).runState ≠ .busy ∧
      (inPhase 1 8 []).runState = .busy := by decide +kernel

theorem witness_IllegalCommandIsReported :
    State.reset.runState ≠ .busy ∧ (0x00 : Byte) ≠ 0x01 ∧ (0x00 : Byte) ≠ 0x02 ∧ (0x03 : Byte) ≠ 0x01 ∧
      (0x03 : Byte) ≠ 0x02 ∧ (withHost [.write 0x0 0x00] State.reset).host = [.write 0x0 0x00] := by decide +kernel

theorem witness_ResetEventRestoresControl :
    ((withHost [.reset] (inPhase 1 6 [])).host = [.reset] ∧ (withHost [.reset] (inPhase 1 6 [])).runState = .busy) ∧
      (withHost [.reset] State.reset).host = [.reset] ∧ (withHost [.reset] State.reset).runState ≠ .busy :=
  ⟨⟨rfl, rfl⟩, rfl, by decide⟩

theorem witness_ResetInsideAPhaseLeavesOutputOpen :
    ∃ i o p t w, (withHost [.resetDuring 31] (inPhase 1 4 [])).host = [.resetDuring 31] ∧
      (withHost [.resetDuring 31] (inPhase 1 4 [])).runState = .busy ∧
      decodePhase (withHost [.resetDuring 31] (inPhase 1 4 [])).phase = .ok i ∧
      exec i { withHost [.resetDuring 31] (inPhase 1 4 []) with host := [] } = .next t ∧
      (withHost [.resetDuring 31] (inPhase 1 4 [])).out = some o ∧ t.out = some p ∧ p.bits = o.bits ++ w :=
  ⟨.cMagic, ⟨[], false, false⟩, ⟨field 32 Config.magic.toNat, false, false⟩, _, _, rfl, rfl, rfl, rfl, rfl, rfl, rfl⟩

theorem witness_RaiseEndsTheCommand :
    ∃ o, (inPhase 2 11 []).out = some o ∧ o.closed = false ∧ o.abandoned = false := ⟨_, rfl, rfl, rfl⟩

theorem witness_HostStreamEventsAndBreaches :
    State.reset.inp = none ∧ State.reset.out = none ∧
      (∃ o, ({ inPhase 1 8 [] with out := some ⟨[], true, false⟩ } : State).out = some o ∧ o.closed = true) ∧
      (∃ o, ({ inPhase 1 8 [] with out := some ⟨[true], false, true⟩ } : State).out = some o ∧ o.abandoned = true) ∧
      (∃ i, ({ inPhase 1 1 [] with inp := some ⟨[], 0, false, []⟩ } : State).inp = some i ∧ i.canRewind = false) ∧
      ((withHost [.attach [] 0 true] (inPhase 1 1 [])).runState = .busy ∧
        (withHost [.attach [] 0 true] (inPhase 1 1 [])).host = [.attach [] 0 true]) :=
  ⟨rfl, rfl, ⟨_, rfl, rfl⟩, ⟨_, rfl, rfl⟩, ⟨_, rfl, rfl⟩, rfl, rfl⟩

/-- The accepted events: attaching after reset, and a changed input with and without a stream. -/
theorem witness_HostStreamEvents_accepted :
    ((withHost [.attach [true] 1 true] State.reset).runState ≠ .busy ∧
        (withHost [.attach [true] 1 true] State.reset).host = [.attach [true] 1 true]) ∧
      ((withHost [.inputChanges [true]] State.reset).host = [.inputChanges [true]] ∧
        (withHost [.inputChanges [true]] State.reset).inp = none) ∧
      ∃ i, (withHost [.inputChanges [true]] (inPhase 1 6 [false])).host = [.inputChanges [true]] ∧
        (withHost [.inputChanges [true]] (inPhase 1 6 [false])).inp = some i :=
  ⟨⟨by decide, rfl⟩, ⟨rfl, rfl⟩, _, rfl, rfl⟩

/-! ## COMPRESS -/

theorem witness_FreqCountsTheInput :
    ∃ i, (inPhase 1 1 (unpackBytes [0x61, 0x61, 0x62])).inp = some i ∧ i.canRewind = true ∧
      i.data = unpackBytes [0x61, 0x61, 0x62] ∧ [0x61, 0x61, (0x62 : Byte)].length ≤ Config.maxIn :=
  ⟨_, rfl, rfl, rfl, by decide⟩

/-- The shortest input that is too long. -/
theorem witness_FreqRefusesLongInput :
    ∃ i S, (inPhase 1 1 (unpackBytes S)).inp = some i ∧ i.canRewind = true ∧ i.data = unpackBytes S ∧
      Config.maxIn < S.length ∧ (inPhase 1 1 (unpackBytes S)).OutOpen :=
  ⟨_, List.replicate (Config.maxIn + 1) 0, rfl, rfl, rfl, by simp, _, rfl, rfl, rfl⟩

theorem witness_LeavesAreInSymbolOrder :
    (positives (putCounts [(97, 2), (256, 1)] State.reset).freq)[1]? = some (256, 1) := by decide +kernel

theorem witness_ExtractMinTakesTheLeast :
    let s := (putCounts [(97, 2), (256, 1)] State.reset).placeLeaves
    s.nodeCount ≤ 513 ∧ s.readLive 1 = true ∧ 1 < s.nodeCount := by decide +kernel

theorem witness_MergeJoinsTheTwoLeast :
    let s := (putCounts [(97, 2), (256, 1)] State.reset).placeLeaves
    s.nodeCount < 513 ∧ 1 < s.liveCount := by decide +kernel

theorem witness_BuildMakesTheTrie : 2 ≤ (positives (putCounts [(97, 2), (256, 1)] State.reset).freq).length := by
  decide +kernel

theorem witness_BuildWrapsTheSoleLeaf : positives (putCounts [(256, 1)] State.reset).freq = [(256, 1)] := by
  decide +kernel

theorem witness_BuildNeedsACount :
    positives (inPhase 1 2 []).freq = [] ∧ (inPhase 1 2 []).out = some ⟨[], false, false⟩ := by decide +kernel

/-- The encoder's store of V4 in `C_CODES` and `C_HEADER`. -/
theorem witness_CodesAreThePaths :
    (putNodes storeV4 4 (inPhase 1 3 [])).trie = some trieV4 ∧ trieV4.size ≤ 513 ∧ trieV4.symbols.Nodup ∧
      (∀ x ∈ trieV4.symbols, x.toNat ≤ 256) := by decide +kernel

theorem witness_CodesArePrefixFree :
    (putNodes storeV4 4 (inPhase 1 3 [])).trie = some trieV4 ∧ trieV4.size ≤ 513 ∧ trieV4.symbols.Nodup ∧
      (∀ x ∈ trieV4.symbols, x.toNat ≤ 256) ∧
      after (exec .cCodes (putNodes storeV4 4 (inPhase 1 3 [])))
        (fun t => 1 ≤ (t.readCode 97).len && 1 ≤ (t.readCode 256).len) = true := by decide +kernel

theorem witness_HeaderIsTheTrieInPreorder :
    (putNodes storeV4 4 (inPhase 1 5 [])).trie = some trieV4 ∧ trieV4.size ≤ 513 ∧
      (putNodes storeV4 4 (inPhase 1 5 [])).OutOpen :=
  ⟨by decide +kernel, by decide, _, rfl, rfl, rfl⟩

/-- The least trie of the encoder, of the empty input (V8): 21 bits. -/
theorem witness_HeaderSizeLaw :
    2 ≤ (Trie.internal 1 (.leaf 256 1) (.leaf 0 0)).leaves ∧ (Trie.internal 1 (.leaf 256 1) (.leaf 0 0)).leaves ≤ 257 ∧
      (serBits (.internal 1 (.leaf 256 1) (.leaf 0 0))).length = 21 := by decide

theorem witness_PayloadIsTheCodewords :
    ∃ i, (putCodes codesV4 (inPhase 1 6 (unpackBytes [0x61, 0x62]))).inp = some i ∧ i.canRewind = true ∧
      i.data = unpackBytes [0x61, 0x62] ∧
      (∀ b ∈ [(0x61 : Byte), 0x62],
        ((putCodes codesV4 (inPhase 1 6 (unpackBytes [0x61, 0x62]))).readCode b.toNat).len ≠ 0) ∧
      (putCodes codesV4 (inPhase 1 6 (unpackBytes [0x61, 0x62]))).OutOpen :=
  ⟨_, rfl, rfl, rfl, by decide +kernel, _, rfl, rfl, rfl⟩

theorem witness_UncodedByteEndsThePayload :
    ∃ i, (putCodes codesV4 (inPhase 1 6 (unpackBytes ([0x61] ++ 0x63 :: [0x62])))).inp = some i ∧ i.canRewind = true ∧
      i.data = unpackBytes ([0x61] ++ 0x63 :: [0x62]) ∧
      (∀ b ∈ [(0x61 : Byte)],
        ((putCodes codesV4 (inPhase 1 6 (unpackBytes ([0x61] ++ 0x63 :: [0x62])))).readCode b.toNat).len ≠ 0) ∧
      ((putCodes codesV4 (inPhase 1 6 (unpackBytes ([0x61] ++ 0x63 :: [0x62])))).readCode (0x63 : Byte).toNat).len = 0 ∧
      (putCodes codesV4 (inPhase 1 6 (unpackBytes ([0x61] ++ 0x63 :: [0x62])))).OutOpen :=
  ⟨_, rfl, rfl, rfl, by decide +kernel, by decide +kernel, _, rfl, rfl, rfl⟩

theorem witness_MagicAndTerminatorAreWritten :
    ∃ o, (putCodes codesV4 (inPhase 1 7 [])).out = some o ∧ o.closed = false ∧ o.abandoned = false :=
  ⟨_, rfl, rfl, rfl⟩

theorem witness_CloseEndsInSuccess :
    ∃ o, (inPhase 1 8 []).out = some o ∧ o.closed = false ∧ o.abandoned = false := ⟨_, rfl, rfl, rfl⟩

theorem witness_FileIsThePaddedBits :
    (⟨[true], true, false⟩ : OutStream).closed = true ∧ (⟨[true], false, false⟩ : OutStream).closed = false := by decide

/-! ## DECOMPRESS -/

theorem witness_MagicIsAccepted :
    ∃ i, (inPhase 2 9 (field 32 Config.magic.toNat ++ [true])).inp = some i ∧
      (inPhase 2 9 (field 32 Config.magic.toNat ++ [true])).inRest = field 32 Config.magic.toNat ++ [true] :=
  ⟨_, rfl, rfl⟩

/-- One bit short of a magic field. -/
theorem witness_BadMagicIsRejected_short :
    ∃ i, (inPhase 2 9 (List.replicate 31 true)).inp = some i ∧ (inPhase 2 9 (List.replicate 31 true)).OutOpen ∧
      (inPhase 2 9 (List.replicate 31 true)).inRest.length < 32 :=
  ⟨_, rfl, ⟨_, rfl, rfl, rfl⟩, by decide +kernel⟩

/-- The first bit of the magic flipped. -/
theorem witness_BadMagicIsRejected_mismatch :
    ∃ i, (inPhase 2 9 ((!Config.magic.toNat.testBit 31) :: field 31 Config.magic.toNat)).inp = some i ∧
      (inPhase 2 9 ((!Config.magic.toNat.testBit 31) :: field 31 Config.magic.toNat)).OutOpen ∧
      (inPhase 2 9 ((!Config.magic.toNat.testBit 31) :: field 31 Config.magic.toNat)).inRest.take 32 ≠
        field 32 Config.magic.toNat :=
  ⟨_, rfl, ⟨_, rfl, rfl, rfl⟩, fun h => by
    have h0 := congrArg List.head? h
    change some (!Config.magic.toNat.testBit 31) = some (Config.magic.toNat.testBit 31) at h0
    simp at h0⟩

theorem witness_HeaderPhaseRefinesReadTree :
    ∃ i, (inPhase 2 10 (serBits trieV4 ++ [true])).inp = some i ∧ (inPhase 2 10 (serBits trieV4 ++ [true])).OutOpen ∧
      readHeader (inPhase 2 10 (serBits trieV4 ++ [true])).inRest = .ok (trieV4.strip, [true], 5) :=
  ⟨_, rfl, ⟨_, rfl, rfl, rfl⟩, by decide +kernel⟩

theorem witness_HeaderPhaseRefinesReadTree_error :
    ∃ i, (inPhase 2 10 []).inp = some i ∧ (inPhase 2 10 []).OutOpen ∧
      readHeader (inPhase 2 10 []).inRest = .error .truncHeader :=
  ⟨_, rfl, ⟨_, rfl, rfl, rfl⟩, by decide +kernel⟩

theorem witness_HeaderPhaseInvertsSerBits :
    ∃ i, (inPhase 2 10 (serBits trieV4 ++ [true])).inp = some i ∧
      (inPhase 2 10 (serBits trieV4 ++ [true])).inRest = serBits trieV4 ++ [true] ∧
      (∀ y ∈ trieV4.symbols, y.toNat ≤ 256) ∧ trieV4.isInternal = true ∧ trieV4.size ≤ 513 :=
  ⟨_, rfl, rfl, by decide +kernel, rfl, by decide⟩

theorem witness_WalkDecodesThePayload :
    ∃ i, (walking (bits [0, 1, 0, 1, 1, 0])).inp = some i ∧ (walking (bits [0, 1, 0, 1, 1, 0])).trie = some trieV4 ∧
      trieV4.isInternal = true ∧ (walking (bits [0, 1, 0, 1, 1, 0])).OutOpen ∧
      walk trieV4 trieV4 (walking (bits [0, 1, 0, 1, 1, 0])).inRest = ([0x61, 0x62], some [false]) :=
  ⟨_, rfl, by decide +kernel, rfl, ⟨_, rfl, rfl, rfl⟩, by decide +kernel⟩

theorem witness_TruncatedPayloadIsReported :
    ∃ i, (walking (bits [0, 1])).inp = some i ∧ (walking (bits [0, 1])).trie = some trieV4 ∧ trieV4.isInternal = true ∧
      (walking (bits [0, 1])).OutOpen ∧ walk trieV4 trieV4 (walking (bits [0, 1])).inRest = ([0x61], none) :=
  ⟨_, rfl, by decide +kernel, rfl, ⟨_, rfl, rfl, rfl⟩, by decide +kernel⟩

/-! ## The tokens -/

theorem witness_MagicTokenIsChecked :
    ∃ m : BitVec 32, m ≠ Config.magic ∧ (inPhase 2 9 []).out = some ⟨[], false, false⟩ :=
  ⟨~~~Config.magic, by
    intro h
    have h0 := congrArg (fun x : BitVec 32 => x.getLsbD 0) h
    simp at h0, rfl⟩

/-- The last index with a full and a not yet full stack, and the token that would be node 514. -/
theorem witness_InternalTokenWaitsOnTheStack :
    (({ inPhase 2 10 [] with nodeCount := 512, sp := 256 } : State).nodeCount < 513 ∧
      ({ inPhase 2 10 [] with nodeCount := 512, sp := 256 } : State).sp < 257) ∧
    (({ inPhase 2 10 [] with nodeCount := 512, sp := 257 } : State).nodeCount < 513 ∧
      257 ≤ ({ inPhase 2 10 [] with nodeCount := 512, sp := 257 } : State).sp) ∧
    (513 ≤ ({ inPhase 2 10 [] with nodeCount := 513 } : State).nodeCount ∧
      ({ inPhase 2 10 [] with nodeCount := 513 } : State).out = some ⟨[], false, false⟩) := by decide +kernel

/-- No node finished and the only one waiting for its left subtree, at the last free index. -/
theorem witness_LeafTokenFillsTheTree_left :
    let s : State := { inPhase 2 10 [] with nodeCount := 512, sp := 1 }
    s.nodeCount < 513 ∧ (256 : Symbol).toNat ≤ 256 ∧ s.sp = 0 + 1 + ([] : List StkEntry).length ∧
      s.stk[0]? = some ⟨0, false⟩ := by decide +kernel

/-- A cascade of two, down to a node that waits for its left subtree. -/
theorem witness_LeafTokenFillsTheTree_cascade :
    let s : State := { inPhase 2 10 [] with
      nodeCount := 6, sp := 3, stk := ((Vector.replicate 257 ⟨0, false⟩).set 1 ⟨2, true⟩).set 2 ⟨4, true⟩ }
    let es : List StkEntry := [⟨4, true⟩, ⟨2, true⟩]
    s.nodeCount < 513 ∧ (∀ e ∈ es, e.leftDone = true) ∧ s.sp = 0 + 1 + es.length ∧ s.stk[0]? = some ⟨0, false⟩ ∧
      ∀ k, k < es.length → s.stk[0 + es.length - k]? = es[k]? := by decide +kernel

/-- A cascade of two, down to the root. -/
theorem witness_LeafTokenFillsTheTree_root :
    let s : State := { inPhase 2 10 [] with
      nodeCount := 4, sp := 2, stk := (Vector.replicate 257 ⟨0, true⟩).set 1 ⟨2, true⟩ }
    let es : List StkEntry := [⟨2, true⟩, ⟨0, true⟩]
    s.nodeCount < 513 ∧ (∀ e ∈ es, e.leftDone = true) ∧ s.sp = es.length ∧ es.getLast? = some ⟨0, true⟩ ∧
      ∀ k, k < es.length → s.stk[es.length - 1 - k]? = es[k]? := by decide +kernel

theorem witness_LeafTokenErrors :
    (inPhase 2 10 []).OutOpen ∧ 513 ≤ ({ inPhase 2 10 [] with nodeCount := 513 } : State).nodeCount ∧
      (({ inPhase 2 10 [] with nodeCount := 512 } : State).nodeCount < 513 ∧ 256 < (257 : Symbol).toNat) ∧
      ((inPhase 2 10 []).nodeCount < 513 ∧ (256 : Symbol).toNat ≤ 256 ∧ (inPhase 2 10 []).sp = 0) :=
  ⟨⟨_, rfl, rfl, rfl⟩, by decide +kernel⟩

theorem witness_CodewordWritesItsByte :
    (walking []).trie = some trieV4 ∧ (walking []).cur = (walking []).root ∧
      ((98 : Symbol), [true, false]) ∈ trieV4.paths ∧ [true, false] ≠ [] ∧ (98 : Symbol).toNat ≤ 255 ∧
      (walking []).out = some ⟨[], false, false⟩ := by decide +kernel

theorem witness_TerminatorEndsTheWalk :
    (walking []).trie = some trieV4 ∧ (walking []).cur = (walking []).root ∧
      (Config.eosSym, [true, true]) ∈ trieV4.paths ∧ [true, true] ≠ [] := by decide +kernel

/-! ## The whole machine -/

/-- `C_CLOSE` ends a command and changes STATE, PHASE and the output. -/
theorem witness_whole_machine_next :
    exec .cClose (inPhase 1 8 []) =
      .next { inPhase 1 8 [] with phase := 0, runState := .done, out := some ⟨[], true, false⟩ } := rfl

/-- Hypotheses of OnlyTheNamedPhasesWrite, OutputIsNeverRolledBack, InputIsOnlyRead. -/
theorem witness_OnlyTheNamedPhasesWrite : ∃ i s t, exec i s = .next t := ⟨_, _, _, witness_whole_machine_next⟩

theorem witness_OutputIsNeverRolledBack : ∃ i s t, exec i s = .next t ∧ t.out ≠ s.out :=
  ⟨_, _, _, witness_whole_machine_next, by decide +kernel⟩

theorem witness_InputIsOnlyRead : ∃ i s t, exec i s = .next t ∧ s.inp ≠ none :=
  ⟨_, _, _, witness_whole_machine_next, by decide +kernel⟩

theorem witness_PhaseFollowsTheSequence :
    ∃ i s t, isPhase i = true ∧ s.phase = phaseCode i ∧ s.runState = .busy ∧ exec i s = .next t :=
  ⟨_, _, _, rfl, rfl, rfl, witness_whole_machine_next⟩

theorem witness_OutputIsClosedExactlyAtTheEnd :
    ∃ i s t, isPhase i = true ∧ s.runState = .busy ∧ exec i s = .next t ∧ t.runState ≠ .busy :=
  ⟨_, _, _, rfl, rfl, witness_whole_machine_next, by decide +kernel⟩

theorem witness_OutputStaysOpen :
    ∃ i s t, isPhase i = true ∧ s.runState = .busy ∧ exec i s = .next t ∧ t.runState = .busy :=
  ⟨.cMagic, inPhase 1 4 [], _, rfl, rfl, test_cMagic, rfl⟩

theorem witness_ErrIsWrittenInTwoPlaces :
    ∃ t, exec .compress { State.reset with runState := .error, err := .badCmd } = .next t ∧ t.err ≠ .badCmd :=
  ⟨_, rfl, by decide⟩

theorem witness_InputIsOnlyRead_decompress :
    ∃ t j, exec .dClose (inPhase 2 12 []) = .next t ∧ (inPhase 2 12 []).inp = some j := ⟨_, _, rfl, rfl⟩

/-- A BUSY state that meets every invariant and takes a step. -/
theorem witness_invariants :
    (inPhase 1 8 []).ControlOk ∧ (inPhase 1 8 []).InRange ∧ (inPhase 1 8 []).CountsFit ∧ (inPhase 1 8 []).CodesFit := by
  have hn : (inPhase 1 8 []).nodes.toList = List.replicate 513 Node.reset := by decide +kernel
  have hc : (inPhase 1 8 []).code.toList = List.replicate 257 ⟨0, 0⟩ := by decide +kernel
  have hf : (inPhase 1 8 []).freq.toList.sum = 0 := by decide +kernel
  refine ⟨⟨rfl, .inl ⟨rfl, by decide, by decide⟩⟩, ?_, ⟨by rw [hf]; decide, ?_⟩, ?_⟩
  · refine ⟨by decide, by decide, by decide, by decide, by decide, by decide, by decide, ?_⟩
    rw [hn]
    intro n h
    rw [List.eq_of_mem_replicate h]
    exact ⟨by decide, by decide, by decide⟩
  · rw [hn]
    intro n h
    rw [List.eq_of_mem_replicate h]
    decide
  · intro e h
    rw [hc] at h
    rw [List.eq_of_mem_replicate h]
    decide

theorem witness_StepKeepsControl : ∃ s t : State, s.ControlOk ∧ step s = .next t :=
  ⟨_, _, witness_invariants.1, rfl⟩

theorem witness_StepKeepsRanges : ∃ s t : State, s.InRange ∧ step s = .next t :=
  ⟨_, _, witness_invariants.2.1, rfl⟩

theorem witness_StepKeepsWidths :
    (∃ s t : State, s.CountsFit ∧ step s = .next t) ∧ ∃ s t : State, s.CodesFit ∧ step s = .next t :=
  ⟨⟨_, _, witness_invariants.2.2.1, rfl⟩, _, _, witness_invariants.2.2.2, rfl⟩

theorem witness_CompressOutputAsAFunction :
    ∃ i, (ready 0x01 (unpackBytes [0x61])).runState ≠ .busy ∧
      (ready 0x01 (unpackBytes [0x61])).host = [.write 0x0 0x01] ∧ (ready 0x01 (unpackBytes [0x61])).inp = some i ∧
      i.canRewind = true ∧ i.data = unpackBytes [0x61] ∧ [(0x61 : Byte)].length ≤ Config.maxIn ∧
      (ready 0x01 (unpackBytes [0x61])).out = some ⟨[], false, false⟩ :=
  ⟨_, by decide, rfl, rfl, rfl, rfl, by decide, rfl⟩

theorem witness_EmptyInputCompresses :
    ∃ i, (ready 0x01 []).runState ≠ .busy ∧ (ready 0x01 []).host = [.write 0x0 0x01] ∧ (ready 0x01 []).inp = some i ∧
      i.canRewind = true ∧ i.data = [] ∧ (ready 0x01 []).out = some ⟨[], false, false⟩ :=
  ⟨_, by decide, rfl, rfl, rfl, rfl, rfl⟩

theorem witness_DecompressResultAsAFunction :
    ∃ i, (ready 0x02 []).runState ≠ .busy ∧ (ready 0x02 []).host = [.write 0x0 0x02] ∧ (ready 0x02 []).inp = some i ∧
      (ready 0x02 []).out = some ⟨[], false, false⟩ := ⟨_, by decide, rfl, rfl, rfl⟩

theorem witness_RoundTripLaw :
    ∃ i, (ready 0x01 (unpackBytes [0x61, 0xFF])).runState ≠ .busy ∧
      (ready 0x01 (unpackBytes [0x61, 0xFF])).host = [.write 0x0 0x01] ∧
      (ready 0x01 (unpackBytes [0x61, 0xFF])).inp = some i ∧ i.canRewind = true ∧
      i.data = unpackBytes [0x61, 0xFF] ∧ [(0x61 : Byte), 0xFF].length ≤ Config.maxIn ∧
      (ready 0x01 (unpackBytes [0x61, 0xFF])).out = some ⟨[], false, false⟩ :=
  ⟨_, by decide, rfl, rfl, rfl, rfl, by decide, rfl⟩

theorem witness_RoundTripLaw_anyTrie :
    let x := field 32 Config.magic.toNat ++ serBits trieV4 ++ payloadBits trieV4 [0x61, 0x62] ++ [true]
    (∃ i, (ready 0x02 x).runState ≠ .busy ∧ (ready 0x02 x).host = [.write 0x0 0x02] ∧ (ready 0x02 x).inp = some i ∧
      (ready 0x02 x).out = some ⟨[], false, false⟩ ∧ (ready 0x02 x).inRest = x) ∧
    trieV4.isInternal = true ∧ trieV4.size ≤ 513 ∧ trieV4.symbols.Nodup ∧ (∀ y ∈ trieV4.symbols, y.toNat ≤ 256) ∧
      Config.eosSym ∈ trieV4.symbols ∧ ∀ b ∈ [(0x61 : Byte), 0x62], b.zeroExtend 9 ∈ trieV4.symbols :=
  ⟨⟨_, by decide, rfl, rfl, rfl, rfl⟩, rfl, by decide, by decide +kernel, by decide +kernel, by decide +kernel,
    by decide +kernel⟩

end Sys2Proof.Tests
end

section
/-! Rules of `field` and `value` (R8): what a prepended bit weighs, how large a value is, and how the two compose. -/

namespace Sys2Proof

/-- The accumulator of `value` is shifted past the bits still to come. -/
theorem value_foldl (b : Bits) (a : Nat) :
    b.foldl (fun a x => 2 * a + x.toNat) a = a * 2 ^ b.length + value b := by
  induction b generalizing a with
  | nil => simp
  | cons x b ih =>
    rw [value, List.foldl_cons, List.foldl_cons, ih, ih, List.length_cons, Nat.pow_succ]
    ring

theorem value_cons (x : Bool) (b : Bits) : value (x :: b) = x.toNat * 2 ^ b.length + value b := by
  rw [value, List.foldl_cons, value_foldl, Nat.mul_zero, Nat.zero_add]

theorem value_lt (b : Bits) : value b < 2 ^ b.length := by
  induction b with
  | nil => simp
  | cons x b ih =>
    rw [value_cons, List.length_cons, Nat.pow_succ]
    cases x <;> simp <;> omega

theorem field_getElem? (n v k : Nat) (h : k < n) : (field n v)[k]? = some (v.testBit (n - 1 - k)) := by
  induction n generalizing k with
  | zero => omega
  | succ n ih =>
    cases k with
    | zero => simp [field_succ]
    | succ k =>
      have hidx : n + 1 - 1 - (k + 1) = n - 1 - k := by omega
      rw [field_succ, List.getElem?_cons_succ, ih k (by omega), hidx]

/-- The value of a field is its integer cut to the field's width. -/
theorem value_field (n v : Nat) : value (field n v) = v % 2 ^ n := by
  induction n with
  | zero => simp [Nat.mod_one]
  | succ n ih =>
    rw [field_succ, value_cons, field_length, ih, Nat.toNat_testBit, Nat.mod_pow_succ]
    ring

/-- The first bit of a bit string is the bit of its value above those of the rest. -/
theorem testBit_value_cons (x : Bool) (b : Bits) : (value (x :: b)).testBit b.length = x := by
  rw [value_cons, Nat.mul_comm, Nat.testBit_two_pow_mul_add _ (value_lt b)]
  cases x <;> simp

theorem value_cons_mod (x : Bool) (b : Bits) : value (x :: b) % 2 ^ b.length = value b := by
  rw [value_cons, Nat.mul_add_mod_self_right, Nat.mod_eq_of_lt (value_lt b)]

theorem field_value (b : Bits) : field b.length (value b) = b := by
  induction b with
  | nil => rfl
  | cons x b ih =>
    rw [List.length_cons, field_succ, testBit_value_cons, ← field_mod _ _ _ (Nat.le_refl b.length),
      value_cons_mod, ih]

/-- Settles O6, from the rules above: the bits of a field, the value of a field, the field of a value. -/
theorem fieldAndValueAreInverse : Obligations.FieldAndValueAreInverse :=
  ⟨field_getElem?, fun n v h => ⟨field_length n v, by rw [value_field, Nat.mod_eq_of_lt h]⟩, field_value⟩

end Sys2Proof
end

section
/-! Rules of a scan of IN byte by byte (R61, R69), of the counting loop (R121, R122) and of `C_FREQ`. -/

namespace Sys2Proof

theorem value_byteBits (b : Byte) : value (byteBits b) = b.toNat := by
  rw [byteBits, value_field, Nat.mod_eq_of_lt b.isLt]

namespace Machine

/-! ## Reading whole bytes from IN -/

/-- `InRewind()` on an input that supports it (R63). -/
theorem inRewind_of_canRewind {s : State} {i : InStream} (hi : s.inp = some i) (hr : i.canRewind = true) :
    inRewind s = .next { s with inp := some { i with pos := 0, log := i.log ++ [.rewind] } } := by
  simp [inRewind, hi, hr]

theorem advance_inRest (s : State) (n : Nat) : (s.advance n).inRest = s.inRest.drop n := by
  cases hi : s.inp <;> simp [State.inRest, State.advance, hi, List.drop_drop]

theorem advance_inp {s : State} {i : InStream} (hi : s.inp = some i) (n : Nat) :
    (s.advance n).inp = some { i with pos := i.pos + n, log := i.log ++ [.bits n] } := by
  simp [State.advance, hi]

/-- `InBits(8)` with a whole byte next. -/
theorem inBits_byte {s : State} {i : InStream} {b : Byte} {x : Bits} (hi : s.inp = some i)
    (hrest : s.inRest = byteBits b ++ x) : inBits 8 s = .next (some b.toNat, s.advance 8) := by
  have htake : s.inRest.take 8 = byteBits b := by rw [hrest, List.take_left' (byteBits_length b)]
  rw [inBits_answers hi (by simp [hrest, byteBits_length]), htake, value_byteBits]

/-- What is left behind that byte. -/
theorem advance_byte_inRest {s : State} {b : Byte} {x : Bits} (hrest : s.inRest = byteBits b ++ x) :
    (s.advance 8).inRest = x := by
  rw [advance_inRest, hrest, List.drop_left' (byteBits_length b)]

/-- The state after `k` times `InBits(8)`, each answered with bits. -/
def State.advanceBytes (s : State) (k : Nat) : State :=
  { s with inp := s.inp.map fun i => { i with pos := i.pos + 8 * k, log := i.log ++ List.replicate k (.bits 8) } }

theorem advanceBytes_zero (s : State) : s.advanceBytes 0 = s := by
  simp [State.advanceBytes]

theorem advanceBytes_succ (s : State) (k : Nat) : s.advanceBytes (k + 1) = (s.advance 8).advanceBytes k := by
  cases hi : s.inp <;>
    simp [State.advanceBytes, State.advance, hi, List.replicate_succ, Nat.mul_succ, Nat.add_assoc, Nat.add_comm]

theorem advanceBytes_inRest (s : State) (k : Nat) : (s.advanceBytes k).inRest = s.inRest.drop (8 * k) := by
  cases hi : s.inp <;> simp [State.inRest, State.advanceBytes, hi, List.drop_drop]

/-! ## The counting loop -/

/-- The table `freq` with each byte of `S` counted in it (R121). -/
def countInto (freq : Vector Nat 257) (S : List Byte) : Vector Nat 257 :=
  Vector.ofFn fun v => freq[v] + S.countP fun b => b.toNat = v.val

/-- The state after `S` has been read and counted. -/
def State.countBytes (s : State) (S : List Byte) : State :=
  { s.advanceBytes S.length with nIn := s.nIn + S.length, freq := countInto s.freq S }

theorem countInto_nil (freq : Vector Nat 257) : countInto freq [] = freq := by
  ext v hv
  simp [countInto]

/-- Counting a byte list is counting its head as `countByte` does, and then its tail. -/
theorem countInto_cons (s : State) (b : Byte) (S : List Byte) :
    countInto s.freq (b :: S) = countInto (s.countByte b.toNat).freq S := by
  ext v hv
  by_cases hb : b.toNat = v
  · subst hb
    simp [countInto, State.readFreq, hv, Nat.add_right_comm _ 1, ← Nat.add_assoc]
  · simp [countInto, hb]

theorem countBytes_nil (s : State) : s.countBytes [] = s := by
  simp [State.countBytes, countInto_nil, advanceBytes_zero]

theorem countBytes_cons (s : State) (b : Byte) (S : List Byte) :
    s.countBytes (b :: S) = ((s.advance 8).countByte b.toNat).countBytes S := by
  have hfreq : countInto s.freq (b :: S) = countInto ((s.advance 8).countByte b.toNat).freq S := countInto_cons s b S
  have hnIn : s.nIn + (S.length + 1) = s.nIn + 1 + S.length := by omega
  simp only [State.countBytes, hfreq, List.length_cons, advanceBytes_succ, hnIn]
  rfl

theorem countBytes_inRest (s : State) (S : List Byte) :
    (s.countBytes S).inRest = s.inRest.drop (8 * S.length) := advanceBytes_inRest s S.length

/-- One round over a byte, below `MAX_IN`. -/
theorem countLoop_byte {maxIn fuel : Nat} {s : State} {i : InStream} {b : Byte} {x : Bits} (hi : s.inp = some i)
    (hrest : s.inRest = byteBits b ++ x) (hroom : s.nIn < maxIn) :
    countLoop maxIn (fuel + 1) s = countLoop maxIn fuel ((s.advance 8).countByte b.toNat) := by
  have hne : (s.advance 8).nIn ≠ maxIn := Nat.ne_of_lt hroom
  simp only [countLoop, inBits_byte hi hrest, andThen_of_next, if_neg hne]

/-- The loop over bytes that all fit below `MAX_IN`, whatever bits come after them. -/
theorem countLoop_bytes {maxIn fuel : Nat} {S : List Byte} {x : Bits} {s : State} {i : InStream} (hi : s.inp = some i)
    (hrest : s.inRest = unpackBytes S ++ x) (hroom : s.nIn + S.length ≤ maxIn) :
    countLoop maxIn (fuel + S.length) s = countLoop maxIn fuel (s.countBytes S) := by
  induction S generalizing s i with
  | nil => rw [countBytes_nil, List.length_nil, Nat.add_zero]
  | cons b S ih =>
    rw [unpackBytes_cons, List.append_assoc] at hrest
    rw [List.length_cons] at hroom
    rw [List.length_cons, ← Nat.add_assoc, countLoop_byte hi hrest (by omega), countBytes_cons]
    have hroom' : s.nIn + 1 + S.length ≤ maxIn := by omega
    exact ih (advance_inp hi 8) (advance_byte_inRest hrest) hroom'

/-- The last round, with no whole byte left: the sentinel's count is set (R122). -/
theorem countLoop_ends {maxIn fuel : Nat} {s : State} {i : InStream} (hi : s.inp = some i)
    (hrest : s.inRest.length < 8) :
    countLoop maxIn (fuel + 1) s = .next (((afterEos s 8).writeFreq 256 1).setPhase 2) := by
  simp only [countLoop, inBits_ends hi hrest, andThen_of_next]
  rfl

/-! ## `C_FREQ` -/

/-- Where `C_FREQ` enters its loop: the counts and `N_IN` cleared, the input `i` rewound (R121). -/
def State.startCount (s : State) (i : InStream) : State :=
  { s with
    freq := Vector.replicate 257 0
    nIn := 0
    inp := some { i with pos := 0, log := i.log ++ [.rewind] } }

theorem execCFreq_startCount {s : State} {i : InStream} (hi : s.inp = some i) (hr : i.canRewind = true) :
    execCFreq s = countLoop Config.maxIn (i.data.length + 1) (s.startCount i) := by
  unfold execCFreq
  rw [inRewind_of_canRewind (s := { s with freq := Vector.replicate 257 0, nIn := 0 }) hi hr]
  rfl

/-- `C_FREQ` on a whole-byte input of at most `MAX_IN` bytes. -/
theorem execCFreq_counts {s : State} {i : InStream} {S : List Byte} (hi : s.inp = some i)
    (hr : i.canRewind = true) (hdata : i.data = unpackBytes S) (hlen : S.length ≤ Config.maxIn) :
    execCFreq s = .next (((afterEos ((s.startCount i).countBytes S) 8).writeFreq 256 1).setPhase 2) := by
  have hrest : (s.startCount i).inRest = unpackBytes S := hdata
  have hfuel : i.data.length + 1 = 7 * S.length + 1 + S.length := by rw [hdata, unpackBytes_length]; omega
  have hend : ((s.startCount i).countBytes S).inRest.length < 8 := by
    simp [countBytes_inRest, hrest, unpackBytes_length]
  calc execCFreq s
      = countLoop Config.maxIn (7 * S.length + 1 + S.length) (s.startCount i) := by
        rw [execCFreq_startCount hi hr, hfuel]
    _ = countLoop Config.maxIn (7 * S.length + 1) ((s.startCount i).countBytes S) :=
        countLoop_bytes rfl (by rw [hrest, List.append_nil]) (by simpa [State.startCount] using hlen)
    _ = _ := countLoop_ends rfl hend

/-- The bytes that equal `v` as numbers are those that equal `v` as bytes. -/
theorem countP_toNat_eq (S : List Byte) {v : Nat} (hv : v < 256) :
    S.countP (fun b => b.toNat = v) = S.count (BitVec.ofNat 8 v) := by
  refine List.countP_congr fun b _ => ?_
  simp [BitVec.toNat_eq, Nat.mod_eq_of_lt hv]

/-- The finished table: the bytes counted from 0, and 1 for the sentinel (R122, R125). -/
theorem countInto_finished (S : List Byte) {v : Nat} (hv : v ≤ 256) :
    ((countInto (Vector.replicate 257 0) S).setIfInBounds 256 1)[v]? = some (countOf S v) := by
  by_cases hs : v = 256
  · subst hs
    simp [countOf]
  · have hlt : v < 256 := by omega
    have hv' : v < 257 := by omega
    simp [countOf, hs, Ne.symm hs, countInto, hv', countP_toNat_eq S hlt]

/-- Settles O17: after the rewind the loop reads the whole bytes of the input one by one and counts each, and the read
that ends the input sets the sentinel's count. -/
theorem freqCountsTheInput : Obligations.FreqCountsTheInput := by
  intro s i S hi hr hdata hlen
  refine ⟨_, execCFreq_counts hi hr hdata hlen, fun v hv => countInto_finished S hv, Nat.zero_add _, rfl, ?_, ?_,
    rfl⟩
  · rw [SameInput, hi]
    rfl
  · refine ⟨i, _, hi, rfl, ?_⟩
    simp [List.replicate_succ']

end Machine

end Sys2Proof
end

section
/-! Rules of the node store and of `LIVE` as the builder uses them (R27, R28), of `ExtractMin` and a merge (R132 to R136), and
of the wrapping of a sole leaf (R137). -/

namespace Sys2Proof.Machine

/-! ## The store after a write -/

theorem readNode_writeNode_same (s : State) {i : Nat} (hi : i < 513) (n : Node) :
    (s.writeNode i n).readNode i = some n := by
  simp [State.readNode, hi]

theorem readNode_writeNode_ne (s : State) {i k : Nat} (hne : k ≠ i) (n : Node) :
    (s.writeNode i n).readNode k = s.readNode k := by
  simp [State.readNode, Vector.getElem?_setIfInBounds_ne hne.symm]

theorem readLive_writeLive_same (s : State) {i : Nat} (hi : i < 513) (b : Bool) :
    (s.writeLive i b).readLive i = b := by
  simp [State.readLive, hi]

theorem readLive_writeLive_ne (s : State) {i k : Nat} (hne : k ≠ i) (b : Bool) :
    (s.writeLive i b).readLive k = s.readLive k := by
  simp [State.readLive, Vector.getElem?_setIfInBounds_ne hne.symm]

/-- A node whose bit is cleared is the one that is not live any more, in the store or not. -/
theorem readLive_writeLive_false (s : State) (i k : Nat) :
    (s.writeLive i false).readLive k = true ↔ k ≠ i ∧ s.readLive k = true := by
  by_cases hk : k = i
  · subst hk
    by_cases hb : k < 513 <;> simp [State.readLive, hb]
  · simp [readLive_writeLive_ne s hk, hk]

theorem readNode_addNode_same (s : State) (hroom : s.nodeCount < 513) (n : Node) :
    (s.addNode n).readNode s.nodeCount = some n := readNode_writeNode_same s hroom n

theorem readNode_addNode_ne (s : State) {k : Nat} (hne : k ≠ s.nodeCount) (n : Node) :
    (s.addNode n).readNode k = s.readNode k := readNode_writeNode_ne s hne n

theorem readLive_addNode_same (s : State) (hroom : s.nodeCount < 513) (n : Node) :
    (s.addNode n).readLive s.nodeCount = true := readLive_writeLive_same s hroom true

theorem readLive_addNode_ne (s : State) {k : Nat} (hne : k ≠ s.nodeCount) (n : Node) :
    (s.addNode n).readLive k = s.readLive k := readLive_writeLive_ne s hne true

/-! ## The live nodes as a finite set -/

/-- The live nodes among those in use: what `liveCount` counts (R132). -/
def State.liveSet (s : State) : Finset Nat := (Finset.range s.nodeCount).filter fun i => s.readLive i = true

@[simp] theorem mem_liveSet {s : State} {i : Nat} : i ∈ s.liveSet ↔ i < s.nodeCount ∧ s.readLive i = true := by
  simp [State.liveSet]

/-- A node in use that is not among the live ones has its bit clear. -/
theorem readLive_eq_false_of_notMem {s : State} {i : Nat} (hlt : i < s.nodeCount) (h : i ∉ s.liveSet) :
    s.readLive i = false := by simpa [hlt] using h

theorem liveCount_eq_card (s : State) : s.liveCount = s.liveSet.card := by
  simp [State.liveSet, State.liveCount, ← Nat.count_eq_card_filter_range, Nat.count]

theorem liveSet_writeLive_false (s : State) (i : Nat) : (s.writeLive i false).liveSet = s.liveSet.erase i := by
  ext k
  simp only [mem_liveSet, writeLive_nodeCount, readLive_writeLive_false, Finset.mem_erase]
  exact and_left_comm

theorem liveSet_addNode (s : State) (hroom : s.nodeCount < 513) (n : Node) :
    (s.addNode n).liveSet = insert s.nodeCount s.liveSet := by
  ext k
  by_cases hk : k = s.nodeCount
  · subst hk
    simp [readLive_addNode_same s hroom]
  · have hlt : k < s.nodeCount + 1 ↔ k < s.nodeCount := by omega
    simp [readLive_addNode_ne s hk, hk, hlt]

/-! ## `ExtractMin` -/

/-- The order of R134, as a proposition. -/
theorem before_iff {s : State} {i j : Nat} :
    s.before i j = true ↔ s.weight i < s.weight j ∨ (s.weight i = s.weight j ∧ i < j) := by
  simp [State.before]

/-- Of two nodes one comes before the other (R134). -/
theorem before_of_not_before {s : State} {i j : Nat} (hne : i ≠ j) (h : ¬ s.before i j = true) : s.before j i = true := by
  rw [before_iff] at h ⊢
  omega

theorem before_trans {s : State} {i j k : Nat} (hij : s.before i j = true) (hjk : s.before j k = true) :
    s.before i k = true := by
  rw [before_iff] at hij hjk ⊢
  omega

/-- What the search of `ExtractMin` knows after the nodes below `n`: none of them is live, or its best is live and before
every other live one (R133, R134). -/
def State.LeastBelow (s : State) (n : Nat) : Option Nat → Prop
  | none => ∀ j, j < n → s.readLive j = false
  | some i => i < n ∧ s.readLive i = true ∧ ∀ j, j < n → s.readLive j = true → j ≠ i → s.before i j = true

/-- A node that is not live leaves the best as it was. -/
theorem leastBelow_better_dead {s : State} {n : Nat} {best : Option Nat} (h : s.LeastBelow n best)
    (hn : s.readLive n = false) : s.LeastBelow (n + 1) (s.better best n) := by
  have hbetter : s.better best n = best := by simp [State.better, hn]
  have hbelow : ∀ j, j < n + 1 → s.readLive j = true → j < n := fun j hj hl => by
    have hne : j ≠ n := fun he => by simp [he, hn] at hl
    omega
  rw [hbetter]
  cases best with
  | none => exact fun j hj => Bool.eq_false_iff.mpr fun hl => by simp [h j (hbelow j hj hl)] at hl
  | some i =>
    obtain ⟨hlt, hlive, hleast⟩ := h
    exact ⟨Nat.lt_succ_of_lt hlt, hlive, fun j hj hl => hleast j (hbelow j hj hl) hl⟩

/-- The first live node is the best so far. -/
theorem leastBelow_better_first {s : State} {n : Nat} (h : s.LeastBelow n none) (hn : s.readLive n = true) :
    s.LeastBelow (n + 1) (s.better none n) := by
  have hbetter : s.better none n = some n := by simp [State.better, hn]
  rw [hbetter]
  refine ⟨n.lt_succ_self, hn, fun j hj hl hne => ?_⟩
  simp [h j (by omega)] at hl

/-- A further live node becomes the best where it comes before the best so far. -/
theorem leastBelow_better_next {s : State} {n i : Nat} (h : s.LeastBelow n (some i)) (hn : s.readLive n = true) :
    s.LeastBelow (n + 1) (s.better (some i) n) := by
  obtain ⟨hlt, hlive, hleast⟩ := h
  by_cases hb : s.before n i = true
  · have hbetter : s.better (some i) n = some n := by simp [State.better, hn, hb]
    rw [hbetter]
    refine ⟨n.lt_succ_self, hn, fun j hj hl hne => ?_⟩
    by_cases hji : j = i
    · exact hji ▸ hb
    · exact before_trans hb (hleast j (by omega) hl hji)
  · have hbetter : s.better (some i) n = some i := by simp [State.better, hn, hb]
    rw [hbetter]
    refine ⟨Nat.lt_succ_of_lt hlt, hlive, fun j hj hl hne => ?_⟩
    by_cases hjn : j = n
    · exact hjn ▸ before_of_not_before hlt.ne' hb
    · exact hleast j (by omega) hl hne

/-- One comparison of the search. -/
theorem leastBelow_better {s : State} {n : Nat} {best : Option Nat} (h : s.LeastBelow n best) :
    s.LeastBelow (n + 1) (s.better best n) := by
  cases hn : s.readLive n with
  | false => exact leastBelow_better_dead h hn
  | true =>
    cases best with
    | none => exact leastBelow_better_first h hn
    | some i => exact leastBelow_better_next h hn

theorem leastBelow_foldl (s : State) (n : Nat) : s.LeastBelow n ((List.range n).foldl s.better none) := by
  induction n with
  | zero => exact fun j hj => absurd hj j.not_lt_zero
  | succ n ih =>
    rw [List.range_succ, List.foldl_append]
    exact leastBelow_better ih

theorem leastBelow_minLive (s : State) : s.LeastBelow s.nodeCount s.minLive := leastBelow_foldl s s.nodeCount

theorem extractMin_snd (s : State) : (extractMin s).2 = s.writeLive (extractMin s).1 false := rfl

/-- `ExtractMin` while a node is live: a live node in use, before every other one (R133, R134). -/
theorem extractMin_least {s : State} (h : s.liveSet.Nonempty) :
    (extractMin s).1 ∈ s.liveSet ∧ ∀ j ∈ s.liveSet, j ≠ (extractMin s).1 → s.before (extractMin s).1 j = true := by
  obtain ⟨i, hi⟩ := h
  have hleast := leastBelow_minLive s
  cases hm : s.minLive with
  | none =>
    rw [hm] at hleast
    simp [hleast i (mem_liveSet.mp hi).1] at hi
  | some m =>
    rw [hm] at hleast
    obtain ⟨hlt, hlive, hmin⟩ := hleast
    have hfst : (extractMin s).1 = m := by simp [extractMin, hm]
    rw [hfst]
    exact ⟨mem_liveSet.mpr ⟨hlt, hlive⟩, fun j hj => hmin j (mem_liveSet.mp hj).1 (mem_liveSet.mp hj).2⟩

/-- Settles O20: the search keeps the least live node so far, so its answer is the least of those in use. -/
theorem extractMinTakesTheLeast : Obligations.ExtractMinTakesTheLeast := by
  intro s _ hlive
  obtain ⟨i, hi⟩ := hlive
  obtain ⟨hmem, hleast⟩ := extractMin_least ⟨i, mem_liveSet.mpr hi⟩
  obtain ⟨hlt, hlive⟩ := mem_liveSet.mp hmem
  exact ⟨hlt, hlive, extractMin_snd s, fun j hj hl hne => before_iff.mp (hleast j (mem_liveSet.mpr ⟨hj, hl⟩) hne)⟩

/-! ## One merge -/

/-- The least live node and, that one taken, the least of the others (R135). -/
theorem extractMin_twice {s : State} (h : 1 < s.liveCount) :
    (extractMin s).1 ∈ s.liveSet ∧ (extractMin (extractMin s).2).1 ∈ s.liveSet.erase (extractMin s).1 := by
  rw [liveCount_eq_card] at h
  have hfirst := (extractMin_least (s := s) (Finset.card_pos.mp (by omega))).1
  have hset : (extractMin s).2.liveSet = s.liveSet.erase (extractMin s).1 := liveSet_writeLive_false s _
  have hcard := Finset.card_erase_add_one hfirst
  have hrest : (extractMin s).2.liveSet.Nonempty := Finset.card_pos.mp (by rw [hset]; omega)
  exact ⟨hfirst, hset ▸ (extractMin_least hrest).1⟩

/-- A merge of the extracted `a` and `b`: neither is live any more, and then the new node is written (R135, R136). -/
theorem mergeOnce_eq {s : State} {a b : Nat} (ha : (extractMin s).1 = a) (hb : (extractMin (extractMin s).2).1 = b) :
    mergeOnce s =
      ((s.writeLive a false).writeLive b false).addNode (internalNode (s.weight a + s.weight b) a b) := by
  subst ha hb
  rfl

/-- The live nodes after a merge: the extracted `a` and `b` are gone, the new node has come (R135). -/
theorem liveSet_mergeOnce {s : State} {a b : Nat} (hroom : s.nodeCount < 513) (ha : (extractMin s).1 = a)
    (hb : (extractMin (extractMin s).2).1 = b) :
    (mergeOnce s).liveSet = insert s.nodeCount ((s.liveSet.erase a).erase b) := by
  rw [mergeOnce_eq ha hb, liveSet_addNode, liveSet_writeLive_false, liveSet_writeLive_false]
  · rfl
  · exact hroom

/-- Settles O21: both extracted nodes are live and in use, so neither is the new entry, and the set of live nodes loses two
and gains one. -/
theorem mergeJoinsTheTwoLeast : Obligations.MergeJoinsTheTwoLeast := by
  intro s hroom hlive a b
  obtain ⟨ha, hb⟩ : a ∈ s.liveSet ∧ b ∈ s.liveSet.erase a := extractMin_twice hlive
  obtain ⟨hba, hb_live⟩ := Finset.mem_erase.mp hb
  have ha_lt : a < s.nodeCount := (mem_liveSet.mp ha).1
  have hb_lt : b < s.nodeCount := (mem_liveSet.mp hb_live).1
  have heq := mergeOnce_eq (s := s) (a := a) (b := b) rfl rfl
  have hset := liveSet_mergeOnce (a := a) (b := b) hroom rfl rfl
  have hcount : (mergeOnce s).nodeCount = s.nodeCount + 1 := by rw [heq]; rfl
  have hnew : s.nodeCount ∉ (s.liveSet.erase a).erase b := by simp
  refine ⟨hba.symm, ?_, ?_, ?_, ?_, hcount, ?_, fun k hk => ?_⟩
  · rw [heq]
    exact readNode_addNode_same ((s.writeLive a false).writeLive b false) hroom _
  · rw [heq]
    exact readLive_addNode_same ((s.writeLive a false).writeLive b false) hroom _
  · refine readLive_eq_false_of_notMem (by omega) ?_
    simp [hset, ha_lt.ne]
  · refine readLive_eq_false_of_notMem (by omega) ?_
    simp [hset, hb_lt.ne]
  · rw [liveCount_eq_card, hset, Finset.card_insert_of_notMem hnew, Finset.card_erase_add_one hb,
      Finset.card_erase_add_one ha, liveCount_eq_card]
  · rw [heq]
    exact readNode_addNode_ne ((s.writeLive a false).writeLive b false) hk _

/-! ## The leaves and the sole leaf -/

/-- A leaf put for a Symbol of positive count (R131). -/
def State.addLeaf (s : State) (c : Symbol × Nat) : State := s.addNode (leafNode c.1 c.2)

/-- The leaves are those of the positive counts, one after another into the empty store (R131). -/
theorem placeLeaves_eq_foldl (s : State) : s.placeLeaves = (positives s.freq).foldl State.addLeaf s.emptyStore := by
  rw [positives, List.foldl_map, List.foldl_filter, State.placeLeaves]
  simp only [decide_eq_true_eq]
  rfl

/-- The trie of an entry that is a leaf (R32). -/
theorem treeAt_of_leaf {nodes : Vector Node 513} {i : Nat} {sym : Symbol} {w : Nat} (fuel : Nat)
    (h : nodes[i]? = some (leafNode sym w)) : treeAt (fuel + 1) nodes i = some (.leaf sym w) := by
  simp [treeAt, h, leafNode]

/-- The trie of an entry that is an internal node, from those of its children (R32). -/
theorem treeAt_of_internal {fuel i l r w : Nat} {nodes : Vector Node 513} {L R : Trie}
    (h : nodes[i]? = some (internalNode w l r)) (hl : treeAt fuel nodes l = some L) (hr : treeAt fuel nodes r = some R) :
    treeAt (fuel + 1) nodes i = some (.internal w L R) := by
  simp [treeAt, h, internalNode, hl, hr]

theorem weight_of_readNode {s : State} {i : Nat} {n : Node} (h : s.readNode i = some n) : s.weight i = n.weight := by
  simp [State.weight, h]

/-- The wrapping writes the phantom leaf and the root, which weighs what the real leaf weighs (R137). -/
theorem wrapSole_eq {s : State} {sym : Symbol} {w : Nat} (h : s.readNode 0 = some (leafNode sym w)) :
    s.wrapSole =
      { s with
        nodes := (s.nodes.setIfInBounds 1 (leafNode 0 0)).setIfInBounds 2 (internalNode w 0 1)
        live := ((s.live.setIfInBounds 0 false).setIfInBounds 1 false).setIfInBounds 2 true
        nodeCount := 3 } := by
  have hweight : (s.writeNode 1 (leafNode 0 0)).weight 0 = w :=
    weight_of_readNode ((readNode_writeNode_ne s Nat.zero_ne_one _).trans h)
  -- The weight is read off while the writes still stand folded as `hweight` has them.
  simp only [State.wrapSole, hweight, Nat.add_zero]
  simp only [State.writeNode, State.writeLive]

/-- The one leaf placed in the emptied store, where one count is positive (R131). -/
theorem placeLeaves_of_sole {s : State} {sym : Symbol} {w : Nat} (h : positives s.freq = [(sym, w)]) :
    s.placeLeaves =
      { s with
        nodes := s.nodes.setIfInBounds 0 (leafNode sym w)
        live := (Vector.replicate 513 false).setIfInBounds 0 true
        nodeCount := 1 } := by
  rw [placeLeaves_eq_foldl, h]
  rfl

/-- `C_BUILD` where one leaf is placed wraps it and is over (R137, R139). -/
theorem execCBuild_of_one {s : State} (h : s.placeLeaves.nodeCount = 1) :
    execCBuild s = .next s.placeLeaves.wrapSole.finishBuild := by
  simp [execCBuild, h]

/-- The store with the wrapped leaf: the real leaf, the phantom leaf and the root (R137). -/
def wrappedStore (nodes : Vector Node 513) (sym : Symbol) (w : Nat) : Vector Node 513 :=
  ((nodes.setIfInBounds 0 (leafNode sym w)).setIfInBounds 1 (leafNode 0 0)).setIfInBounds 2 (internalNode w 0 1)

theorem wrappedStore_leaf (nodes : Vector Node 513) (sym : Symbol) (w : Nat) :
    (wrappedStore nodes sym w)[0]? = some (leafNode sym w) := by simp [wrappedStore]

theorem wrappedStore_phantom (nodes : Vector Node 513) (sym : Symbol) (w : Nat) :
    (wrappedStore nodes sym w)[1]? = some (leafNode 0 0) := by simp [wrappedStore]

theorem wrappedStore_root (nodes : Vector Node 513) (sym : Symbol) (w : Nat) :
    (wrappedStore nodes sym w)[2]? = some (internalNode w 0 1) := by simp [wrappedStore]

/-- `C_BUILD` where one count is positive, field by field (R131, R137, R139). -/
theorem execCBuild_of_sole {s : State} {sym : Symbol} {w : Nat} (h : positives s.freq = [(sym, w)]) :
    execCBuild s =
      .next { s with
        nodes := wrappedStore s.nodes sym w
        live := (Vector.replicate 513 false).setIfInBounds 2 true
        nodeCount := 3
        root := 2
        phase := 3 } := by
  have hsole : s.placeLeaves.readNode 0 = some (leafNode sym w) := by
    simp [placeLeaves_of_sole h, State.readNode]
  have hlive : (((Vector.replicate 513 false).setIfInBounds 0 true).setIfInBounds 0 false).setIfInBounds 1 false =
      Vector.replicate 513 false := by
    simp
  rw [execCBuild_of_one (by rw [placeLeaves_of_sole h]), wrapSole_eq hsole, placeLeaves_of_sole h]
  simp only [State.finishBuild, hlive, wrappedStore]

/-- Where one bit alone of `LIVE` is set, one node alone is live (R28). -/
theorem getElem?_replicate_setLive {i : Nat} (hi : i < 513) (j : Nat) :
    ((Vector.replicate 513 false).setIfInBounds i true)[j]?.getD false = true ↔ j = i := by
  by_cases hj : j = i
  · simp [hj, hi]
  · by_cases hb : j < 513 <;> simp [hj, Ne.symm hj, hb]

/-- A state in which one node in use alone is live counts one live node. -/
theorem liveCount_eq_one {s : State} {i : Nat} (hi : i < s.nodeCount) (h : ∀ j, s.readLive j = true ↔ j = i) :
    s.liveCount = 1 := by
  rw [liveCount_eq_card, Finset.card_eq_one]
  refine ⟨i, Finset.ext fun j => ?_⟩
  rw [mem_liveSet, h, Finset.mem_singleton]
  exact and_iff_right_of_imp fun hj => hj ▸ hi

/-- Settles O23: the leaf stands alone in the store, and the three entries of the wrap hold the trie. -/
theorem buildWrapsTheSoleLeaf : Obligations.BuildWrapsTheSoleLeaf := by
  intro s sym w hpos
  have hleaf := wrappedStore_leaf s.nodes sym w
  have hphantom := wrappedStore_phantom s.nodes sym w
  have hroot := wrappedStore_root s.nodes sym w
  have hlive := getElem?_replicate_setLive (show 2 < 513 by decide)
  refine ⟨_, execCBuild_of_sole hpos, ?_, rfl, rfl, hleaf, hphantom, ?_, hlive, rfl, rfl⟩
  · exact treeAt_of_internal hroot (treeAt_of_leaf 255 hleaf) (treeAt_of_leaf 255 hphantom)
  · exact liveCount_eq_one (i := 2) (show 2 < 3 by decide) hlive

end Sys2Proof.Machine
end

section
/-! Rules of the depth-first visit (R30, R151, R160): the traversal over `STK` is the recursion over the trie that the node
store holds. -/

namespace Sys2Proof.Machine

/-! ## The recursion -/

/-- The same state with the traversal stack `stk`, of which `n` entries are in use (R30). -/
def State.withStk (s : State) (stk : Vector StkEntry 257) (n : Nat) : State := { s with stk := stk, sp := n }

/-- The path registers go to a left child, if they follow the visit. -/
def State.goDown (onPath : Bool) (s : State) : State := if onPath then s.pathDown else s

/-- The path registers go from a left child to its sibling, if they follow the visit. -/
def State.goAcross (onPath : Bool) (s : State) : State := if onPath then s.pathAcross else s

/-- The path registers go back to the parent, if they follow the visit. -/
def State.goUp (onPath : Bool) (s : State) : State := if onPath then s.pathUp else s

@[simp] theorem goDown_nodes (onPath : Bool) (s : State) : (s.goDown onPath).nodes = s.nodes := by
  cases onPath <;> rfl

@[simp] theorem goAcross_nodes (onPath : Bool) (s : State) : (s.goAcross onPath).nodes = s.nodes := by
  cases onPath <;> rfl

@[simp] theorem goUp_nodes (onPath : Bool) (s : State) : (s.goUp onPath).nodes = s.nodes := by
  cases onPath <;> rfl

/-- The visit of a trie as R151 and R161 write it, recursively and with no stack. -/
def visit (onPath : Bool) (atLeaf : Symbol → State → Result) (atInternal : State → Result) : Trie → State → Result
  | .leaf sym _, s => atLeaf sym s
  | .internal _ l r, s =>
    andThen (atInternal s) fun a =>
      andThen (visit onPath atLeaf atInternal l (a.goDown onPath)) fun b =>
        andThen (visit onPath atLeaf atInternal r (b.goAcross onPath)) fun c => .next (c.goUp onPath)

/-- An operation at a node that neither reads nor writes the stack and keeps the node store. -/
structure IgnoresStk (f : State → Result) : Prop where
  withStk : ∀ {s t : State} (stk : Vector StkEntry 257) (n : Nat), f s = .next t →
    f (s.withStk stk n) = .next (t.withStk stk n)
  nodes : ∀ {s t : State}, f s = .next t → t.nodes = s.nodes

/-- An operation that does nothing ignores the stack. -/
theorem ignoresStk_next : IgnoresStk .next where
  withStk _ _ h := by cases h; rfl
  nodes h := by cases h; rfl

/-- A trie that `Tree(i)` reads within `fuel` levels is less than `fuel` deep. -/
theorem treeAt_depth_lt {nodes : Vector Node 513} {T : Trie} {fuel i : Nat} (h : treeAt fuel nodes i = some T) :
    T.depth < fuel := by
  induction T generalizing fuel i with
  | leaf sym w =>
    cases fuel with
    | zero => cases h
    | succ fuel => exact Nat.succ_pos fuel
  | internal w l r ihl ihr =>
    obtain ⟨nd, fuel', rfl, -, -, -, hl, hr⟩ := treeAt_internal h
    have hdl := ihl hl
    have hdr := ihr hr
    simp only [Trie.depth]
    omega

section Visit

variable {onPath : Bool} {atLeaf : Symbol → State → Result} {atInternal : State → Result}

/-- What it takes for the visit of an internal node to answer. -/
theorem visit_internal_next {w : Nat} {l r : Trie} {s t : State} :
    visit onPath atLeaf atInternal (.internal w l r) s = .next t ↔
      ∃ a b c, atInternal s = .next a ∧ visit onPath atLeaf atInternal l (a.goDown onPath) = .next b ∧
        visit onPath atLeaf atInternal r (b.goAcross onPath) = .next c ∧ c.goUp onPath = t := by
  simp [visit, andThen_eq_next]

/-- A visit keeps the node store. -/
theorem visit_nodes (hleaf : ∀ sym, IgnoresStk (atLeaf sym)) (hint : IgnoresStk atInternal) {T : Trie} {s t : State}
    (h : visit onPath atLeaf atInternal T s = .next t) : t.nodes = s.nodes := by
  induction T generalizing s t with
  | leaf sym w => exact (hleaf sym).nodes h
  | internal w l r ihl ihr =>
    obtain ⟨a, b, c, ha, hb, hc, rfl⟩ := visit_internal_next.mp h
    rw [goUp_nodes, ihr hc, goAcross_nodes, ihl hb, goDown_nodes, hint.nodes ha]

/-! ## The traversal, one node at a time -/

/-- The traversal after a subtree has been finished: it unwinds the stack and goes on at the next right child. -/
def resume (onPath : Bool) (atLeaf : Symbol → State → Result) (atInternal : State → Result) (fuel : Nat) (s : State) :
    Result :=
  andThen (unwind onPath s.sp s) fun p =>
    match p.1 with
    | none => .next p.2
    | some j => traverse onPath atLeaf atInternal fuel j p.2

theorem traverse_leaf {fuel i : Nat} {s : State} {nd : Node} (hnd : s.nodes[i]? = some nd) (hl : nd.leaf = true) :
    traverse onPath atLeaf atInternal (fuel + 1) i s =
      andThen (atLeaf nd.sym s) (resume onPath atLeaf atInternal fuel) := by
  simp only [traverse, State.readNode, hnd, hl, if_true]
  rfl

/-- At an internal node the traversal pushes it and goes down to its left child. -/
theorem traverse_internal {fuel i n : Nat} {s a : State} {stk : Vector StkEntry 257} {nd : Node}
    (hnd : s.nodes[i]? = some nd) (hl : nd.leaf = false)
    (ha : atInternal (s.withStk stk n) = .next (a.withStk stk n)) (hroom : n < 257) :
    traverse onPath atLeaf atInternal (fuel + 1) i (s.withStk stk n) =
      traverse onPath atLeaf atInternal fuel nd.left
        ((a.goDown onPath).withStk (stk.setIfInBounds n ⟨i, false⟩) (n + 1)) := by
  have hread : (s.withStk stk n).readNode i = some nd := hnd
  have hpush : (a.withStk stk n).pushStk i = some (a.withStk (stk.setIfInBounds n ⟨i, false⟩) (n + 1)) := if_pos hroom
  simp only [traverse, hread, hl, ha, andThen_of_next, hpush, Bool.false_eq_true, if_false]
  cases onPath <;> rfl

/-- With the stack empty the traversal is over. -/
theorem resume_empty {fuel : Nat} {s : State} {stk : Vector StkEntry 257} :
    resume onPath atLeaf atInternal fuel (s.withStk stk 0) = .next (s.withStk stk 0) := rfl

/-- With a node on top whose left subtree is finished now, the traversal goes on at its right child. -/
theorem resume_left_finished {fuel i n : Nat} {s : State} {stk : Vector StkEntry 257} {nd : Node}
    (htop : stk[n]? = some ⟨i, false⟩) (hnd : s.nodes[i]? = some nd) :
    resume onPath atLeaf atInternal fuel (s.withStk stk (n + 1)) =
      traverse onPath atLeaf atInternal fuel nd.right
        ((s.goAcross onPath).withStk (stk.setIfInBounds n ⟨i, true⟩) (n + 1)) := by
  have hread : (s.withStk stk (n + 1)).readNode i = some nd := hnd
  have htop' : (s.withStk stk (n + 1)).stk[n]? = some ⟨i, false⟩ := htop
  simp only [resume, State.withStk, unwind] at hread htop' ⊢
  simp only [htop', hread]
  cases onPath <;> rfl

/-- A node on top whose right subtree is finished now is popped. -/
theorem resume_right_finished {fuel i n : Nat} {s : State} {stk : Vector StkEntry 257}
    (htop : stk[n]? = some ⟨i, true⟩) :
    resume onPath atLeaf atInternal fuel (s.withStk stk (n + 1)) =
      resume onPath atLeaf atInternal fuel ((s.goUp onPath).withStk stk n) := by
  simp only [resume, State.withStk, unwind, htop]
  cases onPath <;> rfl

/-! ## The traversal is the recursion -/

/-- The traversal of a subtree does what its visit does, uses one round a node and leaves the stack as deep as it was,
with the entries in use unchanged; then it goes on (R30, R151, R161). -/
theorem traverse_subtree (hleaf : ∀ sym, IgnoresStk (atLeaf sym)) (hint : IgnoresStk atInternal) {T : Trie}
    {s t : State} {d i n : Nat} (fuel : Nat) (stk : Vector StkEntry 257) (htree : treeAt d s.nodes i = some T)
    (hroom : n + T.depth ≤ 257) (h : visit onPath atLeaf atInternal T s = .next t) :
    ∃ stk' : Vector StkEntry 257, (∀ k < n, stk'[k]? = stk[k]?) ∧
      traverse onPath atLeaf atInternal (fuel + T.size) i (s.withStk stk n) =
        resume onPath atLeaf atInternal fuel (t.withStk stk' n) := by
  induction T generalizing s t d i n fuel stk with
  | leaf sym w =>
    obtain ⟨nd, hnd, hl, rfl, -⟩ := treeAt_leaf htree
    refine ⟨stk, fun _ _ => rfl, ?_⟩
    have hread : (s.withStk stk n).nodes[i]? = some nd := hnd
    have hsize : fuel + (Trie.leaf nd.sym w).size = fuel + 1 := rfl
    rw [hsize, traverse_leaf hread hl, (hleaf nd.sym).withStk stk n h, andThen_of_next]
  | internal w l r ihl ihr =>
    obtain ⟨nd, d', rfl, hnd, hl, -, hleft, hright⟩ := treeAt_internal htree
    obtain ⟨a, b, c, ha, hb, hc, rfl⟩ := visit_internal_next.mp h
    rw [Trie.depth] at hroom
    have hsize : fuel + (Trie.internal w l r).size = fuel + r.size + l.size + 1 := by
      simp only [Trie.size, Trie.leaves, Trie.internals]
      omega
    have hna : a.nodes = s.nodes := hint.nodes ha
    have hnb : b.nodes = s.nodes := by rw [visit_nodes hleaf hint hb, goDown_nodes, hna]
    obtain ⟨stk₁, hkept₁, hrun₁⟩ := ihl (n := n + 1) (fuel + r.size) (stk.setIfInBounds n ⟨i, false⟩)
      (by rw [goDown_nodes, hna]; exact hleft) (by omega) hb
    have htop₁ : stk₁[n]? = some ⟨i, false⟩ := by
      rw [hkept₁ n n.lt_succ_self, Vector.getElem?_setIfInBounds_self_of_lt (by omega)]
    obtain ⟨stk₂, hkept₂, hrun₂⟩ := ihr (n := n + 1) fuel (stk₁.setIfInBounds n ⟨i, true⟩)
      (by rw [goAcross_nodes, hnb]; exact hright) (by omega) hc
    have htop₂ : stk₂[n]? = some ⟨i, true⟩ := by
      rw [hkept₂ n n.lt_succ_self, Vector.getElem?_setIfInBounds_self_of_lt (by omega)]
    refine ⟨stk₂, fun k hk => ?_, ?_⟩
    · rw [hkept₂ k (by omega), Vector.getElem?_setIfInBounds_ne (by omega), hkept₁ k (by omega),
        Vector.getElem?_setIfInBounds_ne (by omega)]
    · rw [hsize, traverse_internal hnd hl (hint.withStk stk n ha) (by omega), hrun₁,
        resume_left_finished htop₁ (by rw [hnb]; exact hnd), hrun₂, resume_right_finished htop₂]

/-- The traversal of the whole trie, from an empty stack, does what the visit does (R151, R161). -/
theorem traverse_trie (hleaf : ∀ sym, IgnoresStk (atLeaf sym)) (hint : IgnoresStk atInternal) {T : Trie}
    {s t : State} (stk : Vector StkEntry 257) (htree : s.trie = some T) (hsize : T.size ≤ 513)
    (h : visit onPath atLeaf atInternal T s = .next t) :
    ∃ stk', traverse onPath atLeaf atInternal Config.nodeCap s.root (s.withStk stk 0) = .next (t.withStk stk' 0) := by
  have hdepth : T.depth < 257 := treeAt_depth_lt htree
  obtain ⟨stk', -, hrun⟩ := traverse_subtree (n := 0) hleaf hint (513 - T.size) stk htree (by omega) h
  rw [Nat.sub_add_cancel hsize] at hrun
  exact ⟨stk', hrun⟩

end Visit

end Sys2Proof.Machine
end

section
/-! Rules of the code table (R29), of the paths of a trie (R150, R152) and of `C_CODES` (R151). -/

namespace Sys2Proof

/-! ## The paths of a trie -/

/-- The leaves with their paths are the leaves. -/
theorem paths_map_fst (T : Trie) : T.paths.map Prod.fst = T.symbols := by
  induction T with
  | leaf sym w => rfl
  | internal w l r ihl ihr =>
    simp only [Trie.symbols] at ihl ihr
    simp [Trie.paths, Trie.symbols, Trie.leafList, ← ihl, ← ihr, Function.comp_def]

theorem exists_path_of_mem_symbols {T : Trie} {x : Symbol} (h : x ∈ T.symbols) : ∃ p, (x, p) ∈ T.paths := by
  rw [← paths_map_fst] at h
  simpa using h

/-- A leaf of an internal node is a leaf of a child, with one bit more in its path. -/
theorem mem_paths_internal {w : Nat} {l r : Trie} {x : Symbol} {p : Bits} :
    (x, p) ∈ (Trie.internal w l r).paths ↔
      (∃ q, (x, q) ∈ l.paths ∧ p = false :: q) ∨ ∃ q, (x, q) ∈ r.paths ∧ p = true :: q := by
  simp [Trie.paths, eq_comm]

/-- A path to a leaf ends there: no path to another leaf begins with it (R152). -/
theorem eq_of_path_prefix {T : Trie} {x y : Symbol} {p q : Bits} (hx : (x, p) ∈ T.paths) (hy : (y, q) ∈ T.paths)
    (hpq : p <+: q) : x = y := by
  induction T generalizing p q with
  | leaf sym w =>
    simp only [Trie.paths, List.mem_singleton, Prod.mk.injEq] at hx hy
    rw [hx.1, hy.1]
  | internal w l r ihl ihr =>
    obtain ⟨p', hx', rfl⟩ | ⟨p', hx', rfl⟩ := mem_paths_internal.mp hx <;>
      obtain ⟨q', hy', rfl⟩ | ⟨q', hy', rfl⟩ := mem_paths_internal.mp hy <;>
      obtain ⟨hbit, hrest⟩ := List.cons_prefix_cons.mp hpq
    · exact ihl hx' hy' hrest
    · cases hbit
    · cases hbit
    · exact ihr hx' hy' hrest

/-- The leaves, each with the path to it from a node that stands at path `p` itself. -/
def Trie.pathsFrom (T : Trie) (p : Bits) : List (Symbol × Bits) := T.paths.map fun c => (c.1, p ++ c.2)

theorem pathsFrom_nil (T : Trie) : T.pathsFrom [] = T.paths := List.map_id' _

theorem pathsFrom_leaf (sym : Symbol) (w : Nat) (p : Bits) : (Trie.leaf sym w).pathsFrom p = [(sym, p)] := by
  simp [Trie.pathsFrom, Trie.paths]

theorem pathsFrom_internal (w : Nat) (l r : Trie) (p : Bits) :
    (Trie.internal w l r).pathsFrom p = l.pathsFrom (p ++ [false]) ++ r.pathsFrom (p ++ [true]) := by
  simp [Trie.pathsFrom, Trie.paths, Function.comp_def]

/-! ## `PATH` and `PLEN` hold a bit string -/

theorem value_snoc (p : Bits) (b : Bool) : value (p ++ [b]) = 2 * value p + b.toNat := by
  simp [value]

namespace Machine

/-- The state with the bits `p` in `PATH` and `PLEN` (R25). -/
def State.atPath (s : State) (p : Bits) : State := { s with path := value p, plen := p.length }

theorem atPath_goDown (s : State) (p : Bits) : (s.atPath p).goDown true = s.atPath (p ++ [false]) := by
  simp [State.atPath, State.goDown, State.pathDown, value_snoc]

theorem atPath_goAcross (s : State) (p : Bits) :
    (s.atPath (p ++ [false])).goAcross true = s.atPath (p ++ [true]) := by
  simp [State.atPath, State.goAcross, State.pathAcross, value_snoc]

theorem atPath_goUp (s : State) (p : Bits) : (s.atPath (p ++ [true])).goUp true = s.atPath p := by
  have hhalf : (2 * value p + 1) / 2 = value p := by omega
  simp [State.atPath, State.goUp, State.pathUp, value_snoc, hhalf]

/-! ## Writing codewords into the code table -/

/-- The code table with each Symbol of `L` bound to its bits, one after another (R29). -/
def bindAll (L : List (Symbol × Bits)) (code : Vector CodeEntry 257) : Vector CodeEntry 257 :=
  L.foldl (fun code c => code.setIfInBounds c.1.toNat ⟨c.2.length, value c.2⟩) code

/-- The state with each Symbol of `L` bound in the code table. -/
def State.bindPaths (s : State) (L : List (Symbol × Bits)) : State := { s with code := bindAll L s.code }

theorem bindPaths_append (s : State) (L M : List (Symbol × Bits)) :
    s.bindPaths (L ++ M) = (s.bindPaths L).bindPaths M := by
  simp [State.bindPaths, bindAll]

/-- An entry that no Symbol of the list names is kept. -/
theorem bindAll_of_unbound {L : List (Symbol × Bits)} {code : Vector CodeEntry 257} {v : Nat}
    (h : ∀ x ∈ L.map Prod.fst, x.toNat ≠ v) : (bindAll L code)[v]? = code[v]? := by
  induction L generalizing code with
  | nil => rfl
  | cons c L ih =>
    rw [List.map_cons, List.forall_mem_cons] at h
    exact (ih h.2).trans (Vector.getElem?_setIfInBounds_ne h.1)

/-- Where the Symbols are distinct each entry is the one written for its Symbol. -/
theorem bindAll_of_mem {L : List (Symbol × Bits)} {code : Vector CodeEntry 257} {x : Symbol} {p : Bits}
    (hdistinct : (L.map Prod.fst).Nodup) (hx : x.toNat ≤ 256) (h : (x, p) ∈ L) :
    (bindAll L code)[x.toNat]? = some ⟨p.length, value p⟩ := by
  induction L generalizing code with
  | nil => cases h
  | cons c L ih =>
    obtain ⟨hfresh, hrest⟩ := List.nodup_cons.mp hdistinct
    rcases List.mem_cons.mp h with rfl | hmem
    · have hunbound : ∀ y ∈ L.map Prod.fst, y.toNat ≠ x.toNat := fun y hy hyx =>
        hfresh (BitVec.eq_of_toNat_eq hyx ▸ hy)
      exact (bindAll_of_unbound hunbound).trans (Vector.getElem?_setIfInBounds_self_of_lt (Nat.lt_succ_of_le hx))
    · exact ih hrest hmem

/-! ## `C_CODES` -/

theorem bindCode_of_symbol {sym : Symbol} (h : sym.toNat ≤ 256) (s : State) :
    bindCode sym s = .next (s.writeCode sym.toNat ⟨s.plen, s.path⟩) := if_pos (Nat.lt_succ_of_le h)

/-- What it takes for a code to be bound. -/
theorem bindCode_next {sym : Symbol} {s t : State} (h : bindCode sym s = .next t) :
    sym.toNat ≤ 256 ∧ s.writeCode sym.toNat ⟨s.plen, s.path⟩ = t := by
  by_cases hle : sym.toNat ≤ 256
  · rw [bindCode_of_symbol hle] at h
    exact ⟨hle, Host.Outcome.next.inj h⟩
  · have hbeyond : ¬ sym.toNat < Config.nSym := fun hlt => hle (Nat.le_of_lt_succ hlt)
    rw [bindCode, if_neg hbeyond] at h
    cases h

/-- Binding a code ignores the traversal stack. -/
theorem ignoresStk_bindCode (sym : Symbol) : IgnoresStk (bindCode sym) where
  withStk stk n h := by
    obtain ⟨hle, rfl⟩ := bindCode_next h
    exact bindCode_of_symbol hle _
  nodes h := by
    obtain ⟨-, rfl⟩ := bindCode_next h
    rfl

/-- The visit below a node at path `p` binds the Symbol of each leaf to its whole path, and brings the path registers
back to `p` (R151). -/
theorem visit_bindCode {T : Trie} (hsym : ∀ x ∈ T.symbols, x.toNat ≤ 256) (s : State) (p : Bits) :
    visit true bindCode .next T (s.atPath p) = .next ((s.bindPaths (T.pathsFrom p)).atPath p) := by
  induction T generalizing s p with
  | leaf sym w =>
    have hle : sym.toNat ≤ 256 := hsym sym (List.mem_singleton_self sym)
    rw [visit, bindCode_of_symbol hle, pathsFrom_leaf]
    rfl
  | internal w l r ihl ihr =>
    have hsplit : (Trie.internal w l r).symbols = l.symbols ++ r.symbols := List.map_append
    rw [hsplit, List.forall_mem_append] at hsym
    obtain ⟨hsyml, hsymr⟩ := hsym
    have hleft := ihl hsyml s (p ++ [false])
    have hright := ihr hsymr (s.bindPaths (l.pathsFrom (p ++ [false]))) (p ++ [true])
    rw [← atPath_goDown] at hleft
    rw [← atPath_goAcross] at hright
    rw [pathsFrom_internal, bindPaths_append]
    exact visit_internal_next.mpr ⟨_, _, _, rfl, hleft, hright, atPath_goUp _ p⟩

/-- The state with no code in the code table (R151). -/
def State.clearCodes (s : State) : State := { s with code := Vector.replicate 257 ⟨0, 0⟩ }

/-- `C_CODES` is the traversal from the cleared table, the empty path and the empty stack. -/
theorem execCCodes_eq (s : State) :
    execCCodes s =
      andThen
        (traverse true bindCode .next Config.nodeCap (s.clearCodes.atPath []).root
          ((s.clearCodes.atPath []).withStk s.stk 0))
        fun s => .next (s.setPhase 4) := rfl

/-- The code table that `C_CODES` leaves for a trie: each Symbol of a leaf bound to its path, no other bound (R151). -/
def codeTable (T : Trie) : Vector CodeEntry 257 := bindAll T.paths (Vector.replicate 257 ⟨0, 0⟩)

/-- `C_CODES` on a trie, field by field but for what is left in `STK` (R151). -/
theorem execCCodes_of_trie {s : State} {T : Trie} (htree : s.trie = some T) (hsize : T.size ≤ 513)
    (hsym : ∀ x ∈ T.symbols, x.toNat ≤ 256) :
    ∃ stk, execCCodes s =
      .next { s with code := codeTable T, stk := stk, sp := 0, path := 0, plen := 0, phase := 4 } := by
  have hvisit := visit_bindCode hsym s.clearCodes []
  rw [pathsFrom_nil] at hvisit
  have htree' : (s.clearCodes.atPath []).trie = some T := htree
  obtain ⟨stk, hrun⟩ := traverse_trie ignoresStk_bindCode ignoresStk_next s.stk htree' hsize hvisit
  refine ⟨stk, ?_⟩
  rw [execCCodes_eq, hrun]
  rfl

/-- Settles O25: the traversal is the recursion over the trie, which writes each leaf's path once into the cleared
table. -/
theorem codesAreThePaths : Obligations.CodesAreThePaths := by
  intro s T htree hsize hdistinct hsym
  obtain ⟨stk, hrun⟩ := execCCodes_of_trie htree hsize hsym
  rw [← paths_map_fst] at hdistinct
  refine ⟨_, hrun, fun x p hmem => ?_, fun v hv hfree => ?_, rfl, rfl, rfl, rfl, rfl⟩
  · have hx : x ∈ T.symbols := by
      rw [← paths_map_fst]
      exact List.mem_map_of_mem hmem
    have hentry : (codeTable T)[x.toNat]? = some ⟨p.length, value p⟩ := bindAll_of_mem hdistinct (hsym x hx) hmem
    simp [State.readCode, hentry]
  · have hunbound : ∀ x ∈ T.paths.map Prod.fst, x.toNat ≠ v := by
      rintro x hx rfl
      rw [paths_map_fst] at hx
      exact hfree (by simpa using hx)
    have hentry : (codeTable T)[v]? = some ⟨0, 0⟩ := by
      rw [codeTable, bindAll_of_unbound hunbound, Vector.getElem?_replicate, if_pos (Nat.lt_succ_of_le hv)]
    simp [State.readCode, hentry]

/-- Settles O26: an entry with a code is the path to a leaf (O25), and no path to a leaf begins another's. -/
theorem codesArePrefixFree : Obligations.CodesArePrefixFree := by
  intro s T htree hsize hdistinct hsym
  obtain ⟨t, hrun, hbound, hfree, -⟩ := codesAreThePaths s T htree hsize hdistinct hsym
  have hpath : ∀ v, v ≤ 256 → 1 ≤ (t.readCode v).len →
      (BitVec.ofNat 9 v, field (t.readCode v).len (t.readCode v).val) ∈ T.paths := by
    intro v hv hlen
    have hleaf : BitVec.ofNat 9 v ∈ T.symbols := by
      by_contra hnone
      simp [hfree v hv hnone] at hlen
    obtain ⟨p, hp⟩ := exists_path_of_mem_symbols hleaf
    have hentry := hbound _ p hp
    rw [BitVec.toNat_ofNat, Nat.mod_eq_of_lt (by omega)] at hentry
    rw [hentry, field_value]
    exact hp
  refine ⟨t, hrun, fun a b ha hb hab hla hlb hpre => hab ?_⟩
  have hsame := congrArg BitVec.toNat (eq_of_path_prefix (hpath a ha hla) (hpath b hb hlb) hpre)
  rwa [BitVec.toNat_ofNat, BitVec.toNat_ofNat, Nat.mod_eq_of_lt (by omega), Nat.mod_eq_of_lt (by omega)] at hsame

end Machine

end Sys2Proof
end

section
/-! Rules of the size of a trie and of its tree header (R161, R162), and of `C_HEADER` (R161). -/

namespace Sys2Proof

/-! ## Sizes -/

theorem size_leaf (sym : Symbol) (w : Nat) : (Trie.leaf sym w).size = 1 := rfl

theorem size_internal (w : Nat) (l r : Trie) : (Trie.internal w l r).size = l.size + r.size + 1 := by
  simp only [Trie.size, Trie.leaves, Trie.internals]
  omega

/-- A property of the Symbols of an internal node is one of those of both children. -/
theorem forall_symbols_internal {p : Symbol → Prop} {w : Nat} {l r : Trie} :
    (∀ y ∈ (Trie.internal w l r).symbols, p y) ↔ (∀ y ∈ l.symbols, p y) ∧ ∀ y ∈ r.symbols, p y := by
  rw [show (Trie.internal w l r).symbols = l.symbols ++ r.symbols from List.map_append, List.forall_mem_append]

/-- A trie is a proper binary tree (R162). -/
theorem leaves_eq_internals_succ (T : Trie) : T.leaves = T.internals + 1 := by
  induction T with
  | leaf sym w => rfl
  | internal w l r ihl ihr =>
    simp only [Trie.leaves, Trie.internals]
    omega

/-- A path of `d` internal nodes has a node beside it at each of them, and a leaf at its end (R173). -/
theorem two_mul_depth_lt_size (T : Trie) : 2 * T.depth < T.size := by
  induction T with
  | leaf sym w => exact Nat.one_pos
  | internal w l r ihl ihr =>
    rw [Trie.depth, size_internal]
    omega

theorem serBits_leaf (sym : Symbol) (w : Nat) : serBits (.leaf sym w) = true :: field 9 sym.toNat := rfl

theorem serBits_internal (w : Nat) (l r : Trie) :
    serBits (.internal w l r) = false :: (serBits l ++ serBits r) := rfl

theorem serBits_length (T : Trie) : (serBits T).length = T.internals + T.leaves * 10 := by
  induction T with
  | leaf sym w => rw [serBits_leaf, List.length_cons, field_length]; rfl
  | internal w l r ihl ihr =>
    rw [serBits_internal, List.length_cons, List.length_append, ihl, ihr, Trie.internals, Trie.leaves]
    omega

/-- Settles O28: a bit an internal node and ten a leaf, with one internal node fewer than leaves. -/
theorem headerSizeLaw : Obligations.HeaderSizeLaw := by
  intro T
  have hlen := serBits_length T
  have hproper := leaves_eq_internals_succ T
  refine ⟨hlen, ?_, ?_, ?_⟩ <;> omega

namespace Machine

/-! ## Writing to an open output -/

/-- The state with the bits `b` appended to OUT (R64). -/
def State.put (s : State) (b : Bits) : State := { s with out := outPlus s b }

theorem put_put (s : State) (a b : Bits) : (s.put a).put b = s.put (a ++ b) := by
  cases ho : s.out <;> simp [State.put, outPlus, ho]

/-- `OutBits(n, v)` on an open output appends the field. -/
theorem outBits_put {s : State} (hopen : s.OutOpen) (n v : Nat) : outBits n v s = .next (s.put (field n v)) := by
  obtain ⟨o, ho, hc, ha⟩ := hopen
  rw [outBits_of_open ho hc ha, State.put, outPlus, ho]
  rfl

theorem outOpen_put {s : State} (hopen : s.OutOpen) (b : Bits) : (s.put b).OutOpen := by
  obtain ⟨o, ho, hc, ha⟩ := hopen
  exact ⟨{ o with bits := o.bits ++ b }, by simp [State.put, outPlus, ho], hc, ha⟩

theorem emitInternal_put {s : State} (hopen : s.OutOpen) : emitInternal s = .next (s.put [false]) :=
  outBits_put hopen 1 0

theorem emitLeaf_put {s : State} (hopen : s.OutOpen) (sym : Symbol) :
    emitLeaf sym s = .next (s.put (true :: field 9 sym.toNat)) := by
  rw [emitLeaf, outBits_put hopen, andThen_of_next, outBits_put (outOpen_put hopen _), put_put]
  rfl

theorem ignoresStk_outBits (n v : Nat) : IgnoresStk (outBits n v) where
  withStk stk m h := by
    obtain ⟨o, ho, hc, ha, rfl⟩ := outBits_next h
    exact outBits_of_open ho hc ha
  nodes h := by
    obtain ⟨o, -, -, -, rfl⟩ := outBits_next h
    rfl

/-- Two operations that ignore the stack ignore it one after the other. -/
theorem ignoresStk_andThen {f g : State → Result} (hf : IgnoresStk f) (hg : IgnoresStk g) :
    IgnoresStk fun s => andThen (f s) g where
  withStk stk n h := by
    obtain ⟨a, ha, hb⟩ := andThen_eq_next.mp h
    exact andThen_eq_next.mpr ⟨_, hf.withStk stk n ha, hg.withStk stk n hb⟩
  nodes h := by
    obtain ⟨a, ha, hb⟩ := andThen_eq_next.mp h
    rw [hg.nodes hb, hf.nodes ha]

theorem ignoresStk_emitLeaf (sym : Symbol) : IgnoresStk (emitLeaf sym) :=
  ignoresStk_andThen (ignoresStk_outBits 1 1) (ignoresStk_outBits 9 sym.toNat)

/-! ## `C_HEADER` -/

/-- The visit of a trie that emits its tokens appends its tree header (R161). -/
theorem visit_emit (T : Trie) {s : State} (hopen : s.OutOpen) :
    visit false emitLeaf emitInternal T s = .next (s.put (serBits T)) := by
  induction T generalizing s with
  | leaf sym w => exact emitLeaf_put hopen sym
  | internal w l r ihl ihr =>
    have hopenl := outOpen_put hopen [false]
    have hopenr := outOpen_put hopenl (serBits l)
    refine visit_internal_next.mpr ⟨_, _, _, emitInternal_put hopen, ihl hopenl, ihr hopenr, ?_⟩
    change ((s.put [false]).put (serBits l)).put (serBits r) = s.put (serBits (.internal w l r))
    rw [put_put, put_put]
    rfl

/-- Settles O27: the traversal is the recursion over the trie, which emits its tokens in preorder. -/
theorem headerIsTheTrieInPreorder : Obligations.HeaderIsTheTrieInPreorder := by
  intro s T htree hsize hopen
  have hvisit := visit_emit T hopen
  obtain ⟨stk, hrun⟩ := traverse_trie ignoresStk_emitLeaf (ignoresStk_outBits 1 0) s.stk htree hsize hvisit
  refine ⟨_, andThen_eq_next.mpr ⟨_, hrun, rfl⟩, rfl, rfl, rfl, rfl⟩

end Machine

end Sys2Proof
end

section
/-! Rules of a round of `ReadTree` (R164 to R168, R172), and `D_HEADER` on the tree header of a trie (R170): the loop
over `STK` reads the trie that the header spells. -/

namespace Sys2Proof

/-! ## Reading a field off a bit string -/

theorem takeField_eq_some {n v : Nat} {b x : Bits} :
    takeField n b = some (v, x) ↔ n ≤ b.length ∧ value (b.take n) = v ∧ b.drop n = x := by
  by_cases hn : n ≤ b.length <;> simp [takeField, hn]

theorem takeField_eq_none {n : Nat} {b : Bits} : takeField n b = none ↔ b.length < n := by
  simp [takeField]

theorem takeField_field {n v : Nat} (x : Bits) (hv : v < 2 ^ n) : takeField n (field n v ++ x) = some (v, x) := by
  refine takeField_eq_some.mpr ⟨by simp [field_length], ?_, List.drop_left' (field_length n v)⟩
  rw [List.take_left' (field_length n v), value_field, Nat.mod_eq_of_lt hv]

/-- The bits that a field was read from are the field of its integer, and the bits after it. -/
theorem eq_field_append_of_takeField {n v : Nat} {b x : Bits} (h : takeField n b = some (v, x)) :
    b = field n v ++ x := by
  obtain ⟨hn, rfl, rfl⟩ := takeField_eq_some.mp h
  have hfield := field_value (b.take n)
  rw [List.length_take_of_le hn] at hfield
  rw [hfield, List.take_append_drop]

/-- The integer of a field fits in it. -/
theorem lt_of_takeField {n v : Nat} {b x : Bits} (h : takeField n b = some (v, x)) : v < 2 ^ n := by
  obtain ⟨hn, rfl, -⟩ := takeField_eq_some.mp h
  have hlt := value_lt (b.take n)
  rwa [List.length_take_of_le hn] at hlt

namespace Machine

/-! ## One round of `ReadTree` -/

theorem inBits_field {s : State} {i : InStream} {n v : Nat} {x : Bits} (hi : s.inp = some i)
    (h : takeField n s.inRest = some (v, x)) : inBits n s = .next (some v, s.advance n) := by
  obtain ⟨hn, rfl, -⟩ := takeField_eq_some.mp h
  exact inBits_answers hi hn

theorem inBits_bit {s : State} {i : InStream} {b : Bool} {x : Bits} (hi : s.inp = some i) (hrest : s.inRest = b :: x) :
    inBits 1 s = .next (some b.toNat, s.advance 1) :=
  inBits_field (x := x) hi (by rw [hrest]; simp [takeField, value])

theorem advance_bit_inRest {s : State} {b : Bool} {x : Bits} (hrest : s.inRest = b :: x) :
    (s.advance 1).inRest = x := by
  rw [advance_inRest, hrest]
  rfl

theorem advance_field_inRest {s : State} {n v : Nat} {x : Bits} (h : takeField n s.inRest = some (v, x)) :
    (s.advance n).inRest = x := by
  rw [advance_inRest]
  exact (takeField_eq_some.mp h).2.2

theorem andThen_next {σ : Type} (o : Host.Outcome σ Fault Refusal) : andThen o .next = o := by
  cases o <;> rfl

/-- A subtree with root `i` has been read: what the loop does next, with `fuel` rounds to go. It completes the nodes
that the subtree finishes, and reads on or, with none waiting, checks the root (R164, R168). -/
def finishSubtree (fuel i : Nat) (s : State) : Result :=
  andThen (closeSubtrees s.sp i s) fun p =>
    match p.1 with
    | none => headerLoop fuel p.2
    | some root => finishHeader root p.2

/-- An internal node with the index `NODE_COUNT` waits for its subtrees, on the stack if there is room (R164). -/
def State.pushInternal (s : State) : State := ((s.pushStk s.nodeCount).getD s).takeIndex

theorem pushInternal_withStk {s : State} {stk : Vector StkEntry 257} {n : Nat} (hn : n < 257) :
    (s.withStk stk n).pushInternal = s.takeIndex.withStk (stk.setIfInBounds n ⟨s.nodeCount, false⟩) (n + 1) := by
  have hpush : (s.withStk stk n).pushStk s.nodeCount =
      some (s.withStk (stk.setIfInBounds n ⟨s.nodeCount, false⟩) (n + 1)) := if_pos hn
  exact congrArg (fun o => (o.getD (s.withStk stk n)).takeIndex) hpush

theorem pushInternal_of_full {s : State} (hsp : 257 ≤ s.sp) : s.pushInternal = s.takeIndex := by
  have hpush : s.pushStk s.nodeCount = none := if_neg (Nat.not_lt.mpr hsp)
  exact congrArg (fun o => (o.getD s).takeIndex) hpush

theorem pushInternal_inp (s : State) : s.pushInternal.inp = s.inp := by
  unfold State.pushInternal State.pushStk
  split <;> rfl

theorem pushInternal_nodeCount (s : State) : s.pushInternal.nodeCount = s.nodeCount + 1 := by
  unfold State.pushInternal State.pushStk
  split <;> rfl

section Round

variable {s : State} {i : InStream} {fuel v : Nat} {x y : Bits}

/-- No bit is left (R165). -/
theorem headerLoop_ends (hi : s.inp = some i) (hrest : s.inRest = []) :
    headerLoop (fuel + 1) s = raiseErr .truncHeader (afterEos s 1) := by
  simp only [headerLoop, inBits_ends (n := 1) hi (by simp [hrest]), andThen_of_next]

/-- A bit is left, but no node (R167, R172). -/
theorem headerLoop_overflows {b : Bool} (hi : s.inp = some i) (hrest : s.inRest = b :: x) (hfull : 513 ≤ s.nodeCount) :
    headerLoop (fuel + 1) s = raiseErr .treeOverflow (s.advance 1) := by
  have hcap : Config.nodeCap ≤ (s.advance 1).nodeCount := hfull
  simp only [headerLoop, inBits_bit hi hrest, andThen_of_next, if_pos hcap]

/-- An internal-node token (R164). -/
theorem headerLoop_internal (hi : s.inp = some i) (hrest : s.inRest = false :: x) (hroom : s.nodeCount < 513) :
    headerLoop (fuel + 1) s = headerLoop fuel (s.advance 1).pushInternal := by
  have hcap : ¬ Config.nodeCap ≤ (s.advance 1).nodeCount := Nat.not_le.mpr hroom
  simp only [headerLoop, inBits_bit hi hrest, andThen_of_next, internalToken, if_neg hcap]
  rfl

/-- The input ends inside a symbol field (R165). -/
theorem headerLoop_cut (hi : s.inp = some i) (hrest : s.inRest = true :: x) (hroom : s.nodeCount < 513)
    (hcut : takeField 9 x = none) :
    headerLoop (fuel + 1) s = raiseErr .truncHeader (afterEos (s.advance 1) 9).takeIndex := by
  have hcap : ¬ Config.nodeCap ≤ (s.advance 1).nodeCount := Nat.not_le.mpr hroom
  have hshort : (s.advance 1).inRest.length < 9 := by
    rw [advance_bit_inRest hrest]
    exact takeField_eq_none.mp hcut
  simp only [headerLoop, inBits_bit hi hrest, andThen_of_next, if_neg hcap, inBits_ends (advance_inp hi 1) hshort]
  rfl

/-- A leaf token is read whole before its symbol is looked at (R164, R172). -/
theorem headerLoop_leafToken (hi : s.inp = some i) (hrest : s.inRest = true :: x) (hroom : s.nodeCount < 513)
    (hsym : takeField 9 x = some (v, y)) :
    headerLoop (fuel + 1) s =
      andThen (leafToken (BitVec.ofNat 9 v) ((s.advance 1).advance 9)) fun p =>
        if p.1 then headerLoop fuel p.2 else .next p.2 := by
  have hcap : ¬ Config.nodeCap ≤ (s.advance 1).nodeCount := Nat.not_le.mpr hroom
  have hfield : takeField 9 (s.advance 1).inRest = some (v, y) := by rw [advance_bit_inRest hrest, hsym]
  simp only [headerLoop, inBits_bit hi hrest, andThen_of_next, if_neg hcap, inBits_field (advance_inp hi 1) hfield]
  rfl

/-- A symbol field holds a reserved value (R166). -/
theorem headerLoop_badSymbol (hi : s.inp = some i) (hrest : s.inRest = true :: x) (hroom : s.nodeCount < 513)
    (hsym : takeField 9 x = some (v, y)) (hv : 256 < v) :
    headerLoop (fuel + 1) s = raiseErr .badSymbol ((s.advance 1).advance 9).takeIndex := by
  have hcap : ¬ Config.nodeCap ≤ ((s.advance 1).advance 9).nodeCount := Nat.not_le.mpr hroom
  have hbad : Config.eosSym < BitVec.ofNat 9 v := by
    rw [BitVec.lt_def, BitVec.toNat_ofNat, Nat.mod_eq_of_lt (lt_of_takeField hsym)]
    exact hv
  rw [headerLoop_leafToken hi hrest hroom hsym]
  simp only [leafToken, if_neg hcap, if_pos hbad, raiseRound, andThen_assoc, andThen_of_next, Bool.false_eq_true,
    if_false, andThen_next]

/-- A leaf token: the leaf is written, and it is a subtree that has been read (R164, R169). -/
theorem headerLoop_leaf (hi : s.inp = some i) (hrest : s.inRest = true :: x) (hroom : s.nodeCount < 513)
    (hsym : takeField 9 x = some (v, y)) (hv : v ≤ 256) :
    headerLoop (fuel + 1) s =
      finishSubtree fuel s.nodeCount
        (((s.advance 1).advance 9).takeIndex.writeNode s.nodeCount (leafNode (BitVec.ofNat 9 v) 0)) := by
  have hcap : ¬ Config.nodeCap ≤ ((s.advance 1).advance 9).nodeCount := Nat.not_le.mpr hroom
  have hgood : ¬ Config.eosSym < BitVec.ofNat 9 v := by
    rw [BitVec.lt_def, BitVec.toNat_ofNat, Nat.mod_eq_of_lt (lt_of_takeField hsym)]
    exact Nat.not_lt.mpr hv
  rw [headerLoop_leafToken hi hrest hroom hsym]
  simp only [leafToken, if_neg hcap, if_neg hgood, andThen_assoc, finishSubtree]
  refine congrArg (andThen _) (funext fun ⟨done, t⟩ => ?_)
  cases done with
  | none => rfl
  | some root => simp only [andThen_assoc, andThen_of_next, Bool.false_eq_true, if_false, andThen_next]

end Round

/-! ## What has been read finishes the nodes that wait for it -/

/-- The node on top of the stack has its left subtree now, and reading goes on with its right one. -/
theorem finishSubtree_left {fuel i j n : Nat} {s : State} {stk : Vector StkEntry 257}
    (htop : stk[n]? = some ⟨i, false⟩) :
    finishSubtree fuel j (s.withStk stk (n + 1)) =
      headerLoop fuel (s.withStk (stk.setIfInBounds n ⟨i, true⟩) (n + 1)) := by
  simp only [finishSubtree, State.withStk, closeSubtrees, htop]
  rfl

/-- The node on top of the stack has both subtrees now: it is written, and is a subtree that has been read. -/
theorem finishSubtree_right {fuel i j n : Nat} {s : State} {stk : Vector StkEntry 257}
    (htop : stk[n]? = some ⟨i, true⟩) :
    finishSubtree fuel j (s.withStk stk (n + 1)) =
      finishSubtree fuel i ((s.writeNode i (internalNode 0 (i + 1) j)).withStk stk n) := by
  simp only [finishSubtree, State.withStk, closeSubtrees, htop]
  rfl

/-- With no node waiting the subtree is the whole tree. -/
theorem finishSubtree_root {fuel i : Nat} {s : State} {stk : Vector StkEntry 257} :
    finishSubtree fuel i (s.withStk stk 0) = finishHeader i (s.withStk stk 0) := rfl

/-- A root that is internal is accepted (R168). -/
theorem finishHeader_internal {root : Nat} {s : State} {nd : Node} (hnd : s.nodes[root]? = some nd)
    (hl : nd.leaf = false) : finishHeader root s = .next { s with root := root, phase := 11 } := by
  simp only [finishHeader, State.readNode, hnd, hl]
  rfl

/-- A root that is a leaf is refused (R168). -/
theorem finishHeader_leaf {root : Nat} {s : State} {nd : Node} (hnd : s.nodes[root]? = some nd) (hl : nd.leaf = true) :
    finishHeader root s = raiseErr .degenerateTree { s with root := root } := by
  simp only [finishHeader, State.readNode, hnd, hl, if_true]

/-! ## A trie written into the node store in preorder -/

/-- The node store after a trie has been read, its root at index `i`: indices are given out in preorder, weights are 0
(R164, R169). -/
def writeTree : Trie → Nat → Vector Node 513 → Vector Node 513
  | .leaf sym _, i, nodes => nodes.setIfInBounds i (leafNode sym 0)
  | .internal _ l r, i, nodes =>
    (writeTree r (i + 1 + l.size) (writeTree l (i + 1) nodes)).setIfInBounds i
      (internalNode 0 (i + 1) (i + 1 + l.size))

/-- Only the entries from the root's on, one a node, are written. -/
theorem writeTree_outside (T : Trie) {i k : Nat} (nodes : Vector Node 513) (hk : k < i ∨ i + T.size ≤ k) :
    (writeTree T i nodes)[k]? = nodes[k]? := by
  induction T generalizing i nodes with
  | leaf sym w =>
    rw [size_leaf] at hk
    exact Vector.getElem?_setIfInBounds_ne (by omega)
  | internal w l r ihl ihr =>
    rw [size_internal] at hk
    rw [writeTree, Vector.getElem?_setIfInBounds_ne (by omega), ihr _ (by omega), ihl _ (by omega)]

/-- A store that agrees on the entries of a trie that was written holds this trie, with every weight 0 (R32, R170). -/
theorem treeAt_writeTree {T : Trie} {i fuel : Nat} {nodes store : Vector Node 513} (hroom : i + T.size ≤ 513)
    (hfuel : T.depth < fuel) (hstore : ∀ k, i ≤ k → k < i + T.size → store[k]? = (writeTree T i nodes)[k]?) :
    treeAt fuel store i = some T.strip := by
  induction T generalizing i fuel nodes with
  | leaf sym w =>
    obtain ⟨fuel, rfl⟩ := Nat.exists_eq_succ_of_ne_zero (Nat.ne_zero_of_lt hfuel)
    rw [size_leaf] at hroom
    refine treeAt_of_leaf fuel ?_
    rw [hstore i le_rfl (by rw [size_leaf]; omega), writeTree, Vector.getElem?_setIfInBounds_self_of_lt (by omega)]
  | internal w l r ihl ihr =>
    obtain ⟨fuel, rfl⟩ := Nat.exists_eq_succ_of_ne_zero (Nat.ne_zero_of_lt hfuel)
    rw [size_internal] at hroom hstore
    rw [Trie.depth] at hfuel
    have hroot : store[i]? = some (internalNode 0 (i + 1) (i + 1 + l.size)) := by
      rw [hstore i le_rfl (by omega), writeTree, Vector.getElem?_setIfInBounds_self_of_lt (by omega)]
    have hleft : ∀ k, i + 1 ≤ k → k < i + 1 + l.size → store[k]? = (writeTree l (i + 1) nodes)[k]? := fun k hk hk' => by
      rw [hstore k (by omega) (by omega), writeTree, Vector.getElem?_setIfInBounds_ne (by omega),
        writeTree_outside r _ (by omega)]
    have hright : ∀ k, i + 1 + l.size ≤ k → k < i + 1 + l.size + r.size →
        store[k]? = (writeTree r (i + 1 + l.size) (writeTree l (i + 1) nodes))[k]? := fun k hk hk' => by
      rw [hstore k (by omega) (by omega), writeTree, Vector.getElem?_setIfInBounds_ne (by omega)]
    exact treeAt_of_internal hroot (ihl (by omega) (by omega) hleft) (ihr (by omega) (by omega) hright)

/-! ## The loop reads the trie that the header spells -/

/-- The state after the tree header of `T` has been read as a subtree: the nodes written from index `NODE_COUNT` on, and
the bits consumed (R164). -/
def State.readSubtree (s : State) (T : Trie) : State :=
  { s with
    nodes := writeTree T s.nodeCount s.nodes
    nodeCount := s.nodeCount + T.size
    inp := s.inp.map fun i => { i with pos := i.pos + (serBits T).length, log := i.log ++ headerTx T } }

theorem readSubtree_inp {s : State} {i : InStream} (hi : s.inp = some i) (T : Trie) :
    (s.readSubtree T).inp = some { i with pos := i.pos + (serBits T).length, log := i.log ++ headerTx T } := by
  simp [State.readSubtree, hi]

theorem readSubtree_inRest {s : State} {T : Trie} {x : Bits} (hrest : s.inRest = serBits T ++ x) :
    (s.readSubtree T).inRest = x := by
  have hdrop : (s.readSubtree T).inRest = s.inRest.drop (serBits T).length := by
    cases hi : s.inp <;> simp [State.inRest, State.readSubtree, hi]
  rw [hdrop, hrest, List.drop_left]

/-- A leaf read as a subtree. -/
theorem readSubtree_leaf (s : State) (sym : Symbol) (w : Nat) :
    ((s.advance 1).advance 9).takeIndex.writeNode s.nodeCount (leafNode sym 0) = s.readSubtree (.leaf sym w) := by
  cases hi : s.inp <;>
    simp [State.readSubtree, State.advance, State.takeIndex, State.writeNode, hi, writeTree, size_leaf, serBits_leaf,
      field_length, headerTx, Nat.add_assoc]

/-- An internal node read as a subtree: its index is taken before its subtrees are read, its entry is written after
them. -/
theorem readSubtree_internal (s : State) (w : Nat) (l r : Trie) :
    (((s.advance 1).takeIndex.readSubtree l).readSubtree r).writeNode s.nodeCount
        (internalNode 0 (s.nodeCount + 1) (s.nodeCount + 1 + l.size)) = s.readSubtree (.internal w l r) := by
  have hsize : (Trie.internal w l r).size = 1 + (l.size + r.size) := by
    rw [size_internal]
    omega
  have hlen : (serBits (.internal w l r)).length = 1 + (serBits l).length + (serBits r).length := by
    rw [serBits_internal, List.length_cons, List.length_append]
    omega
  cases hi : s.inp <;>
    simp [State.readSubtree, State.advance, State.takeIndex, State.writeNode, hi, writeTree, hsize, hlen, headerTx,
      Nat.add_assoc]

/-- The loop over the tree header of a subtree reads it in one round a node and leaves the stack as deep as it was, with
the entries in use unchanged; then the subtree has been read (R164). -/
theorem headerLoop_subtree {T : Trie} {s : State} {i : InStream} {x : Bits} {n : Nat} (fuel : Nat)
    (stk : Vector StkEntry 257) (hi : s.inp = some i) (hrest : s.inRest = serBits T ++ x)
    (hsym : ∀ y ∈ T.symbols, y.toNat ≤ 256) (hcap : s.nodeCount + T.size ≤ 513) (hroom : n + T.depth ≤ 257) :
    ∃ stk' : Vector StkEntry 257, (∀ k < n, stk'[k]? = stk[k]?) ∧
      headerLoop (fuel + T.size) (s.withStk stk n) =
        finishSubtree fuel s.nodeCount ((s.readSubtree T).withStk stk' n) := by
  induction T generalizing s i x n fuel stk with
  | leaf sym w =>
    rw [size_leaf] at hcap
    have hfield := takeField_field x sym.isLt
    have hround := headerLoop_leaf (s := s.withStk stk n) (fuel := fuel) hi hrest (Nat.lt_of_succ_le hcap) hfield
      (hsym sym (List.mem_singleton_self sym))
    rw [BitVec.ofNat_toNat, BitVec.setWidth_eq] at hround
    refine ⟨stk, fun _ _ => rfl, hround.trans ?_⟩
    rw [← readSubtree_leaf s sym w]
    rfl
  | internal w l r ihl ihr =>
    rw [size_internal] at hcap
    rw [Trie.depth] at hroom
    obtain ⟨hsyml, hsymr⟩ := forall_symbols_internal.mp hsym
    rw [serBits_internal, List.cons_append, List.append_assoc] at hrest
    have hround := headerLoop_internal (s := s.withStk stk n) (fuel := fuel + r.size + l.size) hi hrest
      (show s.nodeCount < 513 by omega)
    have hpush : ((s.withStk stk n).advance 1).pushInternal =
        (s.advance 1).takeIndex.withStk (stk.setIfInBounds n ⟨s.nodeCount, false⟩) (n + 1) :=
      pushInternal_withStk (s := s.advance 1) (show n < 257 by omega)
    have hsize : fuel + (Trie.internal w l r).size = fuel + r.size + l.size + 1 := by
      rw [size_internal]
      omega
    have hresta : (s.advance 1).takeIndex.inRest = serBits l ++ (serBits r ++ x) := advance_bit_inRest hrest
    have hcapl : s.nodeCount + 1 + l.size ≤ 513 := by omega
    have hcapr : s.nodeCount + 1 + l.size + r.size ≤ 513 := by omega
    obtain ⟨stk₁, hkept₁, hrun₁⟩ := ihl (s := (s.advance 1).takeIndex) (n := n + 1) (fuel + r.size)
      (stk.setIfInBounds n ⟨s.nodeCount, false⟩) (advance_inp hi 1) hresta hsyml hcapl (by omega)
    have htop₁ : stk₁[n]? = some ⟨s.nodeCount, false⟩ := by
      rw [hkept₁ n n.lt_succ_self, Vector.getElem?_setIfInBounds_self_of_lt (by omega)]
    obtain ⟨stk₂, hkept₂, hrun₂⟩ := ihr (s := (s.advance 1).takeIndex.readSubtree l) (n := n + 1) fuel
      (stk₁.setIfInBounds n ⟨s.nodeCount, true⟩) (readSubtree_inp (advance_inp hi 1) l) (readSubtree_inRest hresta)
      hsymr hcapr (by omega)
    have htop₂ : stk₂[n]? = some ⟨s.nodeCount, true⟩ := by
      rw [hkept₂ n n.lt_succ_self, Vector.getElem?_setIfInBounds_self_of_lt (by omega)]
    refine ⟨stk₂, fun k hk => ?_, ?_⟩
    · rw [hkept₂ k (by omega), Vector.getElem?_setIfInBounds_ne (by omega), hkept₁ k (by omega),
        Vector.getElem?_setIfInBounds_ne (by omega)]
    · rw [hsize, hround, hpush, hrun₁, finishSubtree_left htop₁, hrun₂, finishSubtree_right htop₂,
        ← readSubtree_internal s w l r]
      rfl

/-! ## `D_HEADER` on the tree header of a trie -/

/-- Where `D_HEADER` enters its loop: no node in use (R164). -/
def State.startHeader (s : State) : State := { s with nodeCount := 0 }

theorem execDHeader_eq (s : State) : execDHeader s = headerLoop s.inputFuel (s.startHeader.withStk s.stk 0) := rfl

/-- The rounds that `D_HEADER` allows are more than the bits left. -/
theorem inRest_length_lt_inputFuel {s : State} {i : InStream} (hi : s.inp = some i) :
    s.inRest.length < s.inputFuel := by
  rw [inRest_length hi, State.inputFuel, hi]
  exact Nat.lt_succ_of_le (Nat.sub_le _ _)

/-- A tree header has a bit a node at least. -/
theorem size_le_serBits_length (T : Trie) : T.size ≤ (serBits T).length := by
  rw [serBits_length, Trie.size]
  omega

/-- `D_HEADER` where a tree header is next reads its trie, and all that is left is the check of the root (R164). -/
theorem execDHeader_of_serBits {s : State} {i : InStream} {T : Trie} {x : Bits} (hi : s.inp = some i)
    (hrest : s.inRest = serBits T ++ x) (hsym : ∀ y ∈ T.symbols, y.toNat ≤ 256) (hsize : T.size ≤ 513) :
    ∃ stk, execDHeader s = finishHeader 0 ((s.startHeader.readSubtree T).withStk stk 0) := by
  have hdepth := two_mul_depth_lt_size T
  have hfuel : T.size ≤ s.inputFuel := by
    have hlen := inRest_length_lt_inputFuel hi
    have hbits := size_le_serBits_length T
    rw [hrest, List.length_append] at hlen
    omega
  obtain ⟨stk, -, hrun⟩ := headerLoop_subtree (n := 0) (s := s.startHeader) (s.inputFuel - T.size) s.stk hi hrest hsym
    (show 0 + T.size ≤ 513 by omega) (by omega)
  rw [Nat.sub_add_cancel hfuel] at hrun
  exact ⟨stk, by rw [execDHeader_eq, hrun]; rfl⟩

/-- `D_HEADER` on the tree header of a trie with an internal root, field by field but for what is left in `STK`. -/
theorem execDHeader_of_internal {s : State} {i : InStream} {w : Nat} {l r : Trie} {x : Bits} (hi : s.inp = some i)
    (hrest : s.inRest = serBits (.internal w l r) ++ x) (hsym : ∀ y ∈ (Trie.internal w l r).symbols, y.toNat ≤ 256)
    (hsize : (Trie.internal w l r).size ≤ 513) :
    ∃ stk, execDHeader s =
      .next { (s.startHeader.readSubtree (.internal w l r)).withStk stk 0 with root := 0, phase := 11 } := by
  obtain ⟨stk, hrun⟩ := execDHeader_of_serBits hi hrest hsym hsize
  have hroot : ((s.startHeader.readSubtree (.internal w l r)).withStk stk 0).nodes[0]? =
      some (internalNode 0 (0 + 1) (0 + 1 + l.size)) :=
    Vector.getElem?_setIfInBounds_self_of_lt (show 0 < 513 by decide)
  exact ⟨stk, hrun.trans (finishHeader_internal hroot rfl)⟩

/-- The trie that is left in the node store. -/
theorem treeAt_startHeader (s : State) {T : Trie} (hsize : T.size ≤ 513) :
    treeAt 257 (s.startHeader.readSubtree T).nodes 0 = some T.strip := by
  have hdepth := two_mul_depth_lt_size T
  exact treeAt_writeTree (nodes := s.nodes) (show 0 + T.size ≤ 513 by omega) (by omega) fun k _ _ => rfl

/-- Settles O37: the loop over a tree header reads its trie into the store, node by node in preorder, and no bit
more. -/
theorem headerPhaseInvertsSerBits : Obligations.HeaderPhaseInvertsSerBits := by
  intro s i T x hi hrest hsym hroot hsize
  cases T with
  | leaf sym w => cases hroot
  | internal w l r =>
    obtain ⟨stk, hrun⟩ := execDHeader_of_internal hi hrest hsym hsize
    have hleft : (s.startHeader.readSubtree (.internal w l r)).inRest = x := readSubtree_inRest hrest
    exact ⟨_, hrun, treeAt_startHeader s hsize, Nat.zero_add _, rfl, hleft⟩

end Machine

end Sys2Proof
end

section
/-! Rules of `ReadTree` as a recursion (R164), and `D_HEADER` on every bit string (R172): where a header fails, it fails
at its first bad token, and the loop over `STK`, which has no entry for a 258th waiting node (assumption 9), meets this
token before it could take the tree for complete. -/

namespace Sys2Proof.Machine

/-! ## Headers that fail -/

/-- Reading tokens off the bits, with so many subtrees still to be read and so many nodes in use, ends in an error: the
tokens before it are good, and it is met in the order of R172. No tree is built, and no stack is needed. -/
inductive HeaderFails : Err → Nat → Bits → Nat → Prop
  /-- No bit is left (R165). -/
  | ends {need n : Nat} : HeaderFails .truncHeader (need + 1) [] n
  /-- A bit is left, but no node (R167). -/
  | overflows {need n : Nat} {b : Bool} {x : Bits} : 513 ≤ n → HeaderFails .treeOverflow (need + 1) (b :: x) n
  /-- The bits end inside a symbol field (R165). -/
  | cut {need n : Nat} {x : Bits} : n < 513 → takeField 9 x = none → HeaderFails .truncHeader (need + 1) (true :: x) n
  /-- A symbol field holds a reserved value (R166). -/
  | badSymbol {need n v : Nat} {x y : Bits} : n < 513 → takeField 9 x = some (v, y) → 256 < v →
      HeaderFails .badSymbol (need + 1) (true :: x) n
  /-- After a leaf one subtree fewer is to be read. -/
  | leaf {e : Err} {need n v : Nat} {x y : Bits} : n < 513 → takeField 9 x = some (v, y) → v ≤ 256 →
      HeaderFails e need y (n + 1) → HeaderFails e (need + 1) (true :: x) n
  /-- After an internal node's token two subtrees are to be read in the place of one. -/
  | internal {e : Err} {need n : Nat} {x : Bits} : n < 513 → HeaderFails e (need + 2) x (n + 1) →
      HeaderFails e (need + 1) (false :: x) n

/-- A header that fails behind a good subtree fails. -/
theorem headerFails_after {e : Err} {T : Trie} {need n : Nat} {x : Bits} (hsym : ∀ y ∈ T.symbols, y.toNat ≤ 256)
    (hcap : n + T.size ≤ 513) (h : HeaderFails e need x (n + T.size)) :
    HeaderFails e (need + 1) (serBits T ++ x) n := by
  induction T generalizing need n x with
  | leaf sym w =>
    rw [size_leaf] at hcap h
    exact .leaf (by omega) (takeField_field x sym.isLt) (hsym sym (List.mem_singleton_self sym)) h
  | internal w l r ihl ihr =>
    obtain ⟨hsyml, hsymr⟩ := forall_symbols_internal.mp hsym
    have hsize : n + (Trie.internal w l r).size = n + 1 + l.size + r.size := by
      rw [size_internal]
      omega
    rw [hsize] at hcap h
    rw [serBits_internal, List.cons_append, List.append_assoc]
    exact .internal (by omega) (ihl hsyml (by omega) (ihr hsymr hcap h))

/-- What it takes for `ReadTree` to give a trie (R164). -/
theorem readTree_succ_ok {fuel n m : Nat} {b x : Bits} {T : Trie} (h : readTree (fuel + 1) b n = .ok (T, x, m)) :
    (∃ v y, b = true :: y ∧ n < 513 ∧ takeField 9 y = some (v, x) ∧ v ≤ 256 ∧ T = .leaf (BitVec.ofNat 9 v) 0 ∧
        m = n + 1) ∨
      ∃ y l z k r, b = false :: y ∧ readTree fuel y (n + 1) = .ok (l, z, k) ∧ readTree fuel z k = .ok (r, x, m) ∧
        T = .internal 0 l r := by
  rcases b with _ | ⟨_ | _, y⟩
  · cases h
  · simp only [readTree, Bool.false_eq_true, if_false] at h
    split at h
    · cases h
    · split at h
      · cases h
      · rename_i l z k hl
        split at h
        · cases h
        · rename_i r x m hr
          cases h
          exact .inr ⟨y, l, z, k, r, rfl, hl, hr, rfl⟩
  · simp only [readTree, if_true] at h
    split at h
    · cases h
    · rename_i hroom
      split at h
      · cases h
      · rename_i v x hfield
        split at h
        · rename_i hv
          cases h
          exact .inl ⟨v, y, rfl, Nat.lt_of_not_le hroom, hfield, hv, rfl, rfl⟩
        · cases h

/-- What `ReadTree` reads is a tree header, and what it gives is the trie of it with every weight 0 (R164). -/
theorem readTree_ok {fuel n m : Nat} {b x : Bits} {T : Trie} (h : readTree fuel b n = .ok (T, x, m)) :
    b = serBits T ++ x ∧ (∀ y ∈ T.symbols, y.toNat ≤ 256) ∧ T.strip = T ∧ m = n + T.size ∧ m ≤ 513 := by
  induction fuel generalizing b n m x T with
  | zero => cases h
  | succ fuel ih =>
    obtain ⟨v, y, rfl, hroom, hfield, hv, rfl, rfl⟩ | ⟨y, l, z, k, r, rfl, hl, hr, rfl⟩ := readTree_succ_ok h
    · have hsym : (BitVec.ofNat 9 v).toNat = v := Nat.mod_eq_of_lt (lt_of_takeField hfield)
      refine ⟨?_, fun s hs => ?_, rfl, rfl, hroom⟩
      · rw [serBits_leaf, hsym, List.cons_append, ← eq_field_append_of_takeField hfield]
      · rw [List.mem_singleton.mp hs, hsym]
        exact hv
    · obtain ⟨rfl, hsyml, hstripl, rfl, -⟩ := ih hl
      obtain ⟨rfl, hsymr, hstripr, rfl, hcap⟩ := ih hr
      have hsize : n + (Trie.internal 0 l r).size = n + 1 + l.size + r.size := by
        rw [size_internal]
        omega
      refine ⟨?_, forall_symbols_internal.mpr ⟨hsyml, hsymr⟩, ?_, hsize.symm, hcap⟩
      · rw [serBits_internal, List.cons_append, List.append_assoc]
      · rw [Trie.strip, hstripl, hstripr]

/-- Where `ReadTree` gives an error and every bit has a call to read it, the header fails with this error (R172). -/
theorem readTree_error {fuel n need : Nat} {b : Bits} {e : Err} (h : readTree fuel b n = .error e)
    (hfuel : b.length < fuel) : HeaderFails e (need + 1) b n := by
  induction fuel generalizing b n need with
  | zero => omega
  | succ fuel ih =>
    rcases b with _ | ⟨_ | _, b⟩
    · cases h
      exact .ends
    · simp only [readTree, Bool.false_eq_true, if_false] at h
      rw [List.length_cons, Nat.succ_lt_succ_iff] at hfuel
      split at h
      · rename_i hfull
        cases h
        exact .overflows hfull
      · rename_i hroom
        refine .internal (Nat.lt_of_not_le hroom) ?_
        split at h
        · rename_i hl
          cases h
          exact ih hl hfuel
        · rename_i l b₁ n₁ hl
          split at h
          · rename_i hr
            cases h
            obtain ⟨rfl, hsyml, -, rfl, hcap⟩ := readTree_ok hl
            rw [List.length_append] at hfuel
            exact headerFails_after hsyml hcap (ih hr (by omega))
          · cases h
    · simp only [readTree, if_true] at h
      split at h
      · rename_i hfull
        cases h
        exact .overflows hfull
      · rename_i hroom
        split at h
        · rename_i hcut
          cases h
          exact .cut (Nat.lt_of_not_le hroom) hcut
        · rename_i v y hfield
          split at h
          · cases h
          · rename_i hv
            cases h
            exact .badSymbol (Nat.lt_of_not_le hroom) hfield (Nat.lt_of_not_le hv)

/-! ## How many subtrees the stack waits for -/

/-- The number of waiting nodes, among the first `n` of the stack, whose left subtree is still to be read: each waits
for a right subtree besides (R30). -/
def openLefts (stk : Vector StkEntry 257) : Nat → Nat
  | 0 => 0
  | n + 1 => openLefts stk n + if stk[n]?.all StkEntry.leftDone then 0 else 1

/-- A write at or above the depth is not seen. -/
theorem openLefts_setIfInBounds {stk : Vector StkEntry 257} {n k : Nat} {e : StkEntry} (hk : n ≤ k) :
    openLefts (stk.setIfInBounds k e) n = openLefts stk n := by
  induction n with
  | zero => rfl
  | succ n ih => rw [openLefts, openLefts, ih (by omega), Vector.getElem?_setIfInBounds_ne (by omega)]

/-- The count after a write on top of the first `n` entries. -/
theorem openLefts_succ_setIfInBounds {stk : Vector StkEntry 257} {n : Nat} {e : StkEntry} (hn : n < 257) :
    openLefts (stk.setIfInBounds n e) (n + 1) = openLefts stk n + if e.leftDone then 0 else 1 := by
  rw [openLefts, openLefts_setIfInBounds le_rfl, Vector.getElem?_setIfInBounds_self_of_lt hn]
  rfl

/-- A subtree that has been read either completes every waiting node, none of which waited for its left subtree, or is
the left subtree of one that did. -/
theorem closeSubtrees_openLefts {n i : Nat} {s : State} (hn : n ≤ 257) :
    (openLefts s.stk n = 0 ∧
        ∃ root nodes, closeSubtrees n i s = .next (some root, { s with nodes := nodes, sp := 0 })) ∨
      ∃ nodes stk sp, closeSubtrees n i s = .next (none, { s with nodes := nodes, stk := stk, sp := sp }) ∧ sp ≤ n ∧
        openLefts stk sp + 1 = openLefts s.stk n := by
  induction n generalizing i s with
  | zero => exact .inl ⟨rfl, i, s.nodes, rfl⟩
  | succ n ih =>
    have htop : s.stk[n]? = some s.stk[n] := Vector.getElem?_eq_getElem (by omega)
    cases hdone : s.stk[n].leftDone with
    | true =>
      have hcount : openLefts s.stk (n + 1) = openLefts s.stk n := by
        rw [openLefts, htop, Option.all_some, hdone]
        rfl
      have hclose : closeSubtrees (n + 1) i s = closeSubtrees n s.stk[n].node
          { s.writeNode s.stk[n].node (internalNode 0 (s.stk[n].node + 1) i) with sp := n } := by
        simp only [closeSubtrees, htop, hdone, if_true]
      rw [hcount, hclose]
      obtain ⟨hzero, root, nodes, hrun⟩ | ⟨nodes, stk, sp, hrun, hsp, hopen⟩ := ih (i := s.stk[n].node)
        (s := { s.writeNode s.stk[n].node (internalNode 0 (s.stk[n].node + 1) i) with sp := n }) (by omega)
      · exact .inl ⟨hzero, root, nodes, hrun⟩
      · exact .inr ⟨nodes, stk, sp, hrun, by omega, hopen⟩
    | false =>
      have hcount : openLefts s.stk (n + 1) = openLefts s.stk n + 1 := by
        rw [openLefts, htop, Option.all_some, hdone]
        rfl
      have hclose : closeSubtrees (n + 1) i s =
          .next (none, { s with stk := s.stk.setIfInBounds n ⟨s.stk[n].node, true⟩, sp := n + 1 }) := by
        simp only [closeSubtrees, htop, hdone, Bool.false_eq_true, if_false]
      refine .inr ⟨s.nodes, _, n + 1, hclose, le_rfl, ?_⟩
      rw [openLefts_succ_setIfInBounds (by omega), hcount]
      rfl

/-! ## The loop fails where the header fails -/

/-- The stack against a header of which `need` subtrees are still to be read. It waits for as many; or, where it had no
entry for a waiting node, the nodes run out before even those are read that it does wait for. The reason is `spent`: a
stacked node has taken one node, and its left subtree has taken another or is still to take one (assumption 9). -/
structure State.Awaits (s : State) (need : Nat) : Prop where
  sp_le : s.sp ≤ 257
  enough : need = openLefts s.stk s.sp + 1 ∨ 513 < s.nodeCount + openLefts s.stk s.sp + 1
  spent : 2 * s.sp ≤ s.nodeCount + openLefts s.stk s.sp

/-- An internal-node token: one subtree more is to be read, whether or not the stack has an entry for the node. -/
theorem awaits_pushInternal {s : State} {need : Nat} (h : s.Awaits need) : s.pushInternal.Awaits (need + 1) := by
  obtain ⟨hsp, henough, hspent⟩ := h
  by_cases hroom : s.sp < 257
  · have hpush : s.pushInternal = s.takeIndex.withStk (s.stk.setIfInBounds s.sp ⟨s.nodeCount, false⟩) (s.sp + 1) :=
      pushInternal_withStk (s := s) hroom
    have hcount := openLefts_succ_setIfInBounds (stk := s.stk) (e := ⟨s.nodeCount, false⟩) hroom
    rw [hpush]
    refine ⟨hroom, ?_, ?_⟩ <;>
      simp only [State.withStk, takeIndex_nodeCount, hcount, Bool.false_eq_true, if_false] <;> omega
  · rw [pushInternal_of_full (Nat.not_lt.mp hroom)]
    refine ⟨hsp, .inr ?_, ?_⟩ <;> simp only [takeIndex_nodeCount, takeIndex_stk, takeIndex_sp] <;> omega

/-- The state `s` but for what `D_HEADER` writes before it ends, which is as in `u`. -/
def State.withWork (s u : State) : State :=
  { s with
    nodes := u.nodes, nodeCount := u.nodeCount, root := u.root, stk := u.stk, sp := u.sp, inp := u.inp
    draws := u.draws }

/-- `o` is the raise of `e` from a state that `D_HEADER` has brought about from `s` (R234, R235). -/
def HeaderRaises (e : Err) (s : State) (o : Result) : Prop := ∃ u, o = raiseErr e (s.withWork u)

theorem headerRaises_after {e : Err} {s t : State} {o : Result} (ht : s.withWork t = t) (h : HeaderRaises e t o) :
    HeaderRaises e s o := by
  obtain ⟨u, rfl⟩ := h
  exact ⟨u, by rw [← ht]; rfl⟩

theorem headerRaises_of_eq {e : Err} {s t : State} {o : Result} (ht : s.withWork t = t) (h : o = raiseErr e t) :
    HeaderRaises e s o := ⟨t, by rw [h, ht]⟩

theorem withWork_pushInternal (s : State) : s.withWork s.pushInternal = s.pushInternal := by
  unfold State.pushInternal State.pushStk
  split <;> rfl

theorem awaits_advance {s : State} {need : Nat} (h : s.Awaits need) (n : Nat) : (s.advance n).Awaits need :=
  ⟨h.sp_le, h.enough, h.spent⟩

theorem inRest_of_inp {s t : State} (h : t.inp = s.inp) : t.inRest = s.inRest := by
  rw [State.inRest, State.inRest, h]

/-- A leaf that is not the last subtree to be read: reading goes on, with one subtree fewer to be read. -/
theorem finishSubtree_awaits {s : State} {need fuel : Nat} (nd : Node) (h : s.Awaits (need + 1))
    (hroom : s.nodeCount < 513) (hneed : need ≠ 0) :
    ∃ t, finishSubtree fuel s.nodeCount (s.takeIndex.writeNode s.nodeCount nd) = headerLoop fuel t ∧ t.Awaits need ∧
      t.inp = s.inp ∧ t.nodeCount = s.nodeCount + 1 ∧ s.withWork t = t := by
  obtain ⟨hsp, henough, hspent⟩ := h
  obtain ⟨hzero, -⟩ | ⟨nodes, stk, sp, hrun, hle, hopen⟩ := closeSubtrees_openLefts (i := s.nodeCount)
    (s := s.takeIndex.writeNode s.nodeCount nd) hsp
  · rw [writeNode_stk, takeIndex_stk] at hzero
    omega
  · rw [writeNode_stk, takeIndex_stk] at hopen
    refine ⟨{ s.takeIndex.writeNode s.nodeCount nd with nodes := nodes, stk := stk, sp := sp }, ?_,
      ⟨hle.trans hsp, ?_, ?_⟩, rfl, rfl, rfl⟩
    · rw [finishSubtree, writeNode_sp, takeIndex_sp, hrun]
      rfl
    · simp only [writeNode_nodeCount, takeIndex_nodeCount]
      omega
    · simp only [writeNode_nodeCount, takeIndex_nodeCount]
      omega

/-- Where the header fails the loop raises its error, and has written nothing but its tables and registers (R172). -/
theorem headerLoop_fails {e : Err} {need n : Nat} {b : Bits} (h : HeaderFails e need b n) {s : State} {i : InStream}
    {fuel : Nat} (hi : s.inp = some i) (hrest : s.inRest = b) (hn : s.nodeCount = n) (hfuel : b.length ≤ fuel)
    (hstk : s.Awaits need) : HeaderRaises e s (headerLoop (fuel + 1) s) := by
  induction h generalizing s i fuel with subst hn
  | ends => exact headerRaises_of_eq rfl (headerLoop_ends hi hrest)
  | overflows hfull => exact headerRaises_of_eq rfl (headerLoop_overflows hi hrest hfull)
  | cut hroom hcut => exact headerRaises_of_eq rfl (headerLoop_cut hi hrest hroom hcut)
  | badSymbol hroom hsym hv => exact headerRaises_of_eq rfl (headerLoop_badSymbol hi hrest hroom hsym hv)
  | @leaf e need n v x y hroom hsym hv hfails ih =>
    have hneed : need ≠ 0 := by
      rintro rfl
      cases hfails
    obtain ⟨t, hrun, hawaits, hinp, hcount, hwork⟩ := finishSubtree_awaits (fuel := fuel)
      (leafNode (BitVec.ofNat 9 v) 0) (awaits_advance (awaits_advance hstk 1) 9) hroom hneed
    have hrest' : t.inRest = y := by
      rw [inRest_of_inp hinp]
      exact advance_field_inRest (by rw [advance_bit_inRest hrest]; exact hsym)
    have hlen : y.length + 9 ≤ fuel := by
      rw [eq_field_append_of_takeField hsym, List.length_cons, List.length_append, field_length] at hfuel
      omega
    obtain ⟨fuel, rfl⟩ := Nat.exists_eq_succ_of_ne_zero (show fuel ≠ 0 by omega)
    rw [headerLoop_leaf hi hrest hroom hsym hv]
    have hraises := ih (fuel := fuel) (hinp.trans (advance_inp (advance_inp hi 1) 9)) hrest' hcount (by omega) hawaits
    rw [← hrun] at hraises
    exact headerRaises_after hwork hraises
  | @internal e need n x hroom hfails ih =>
    rw [List.length_cons] at hfuel
    obtain ⟨fuel, rfl⟩ := Nat.exists_eq_succ_of_ne_zero (show fuel ≠ 0 by omega)
    have hinp := pushInternal_inp (s.advance 1)
    have hrest' : (s.advance 1).pushInternal.inRest = x := by rw [inRest_of_inp hinp, advance_bit_inRest hrest]
    rw [headerLoop_internal hi hrest hroom]
    exact headerRaises_after (withWork_pushInternal (s.advance 1))
      (ih (hinp.trans (advance_inp hi 1)) hrest' (pushInternal_nodeCount _) (by omega)
        (awaits_pushInternal (awaits_advance hstk 1)))

/-! ## `D_HEADER` on every bit string -/

/-- At the start no node waits, and one subtree is to be read: the whole tree. -/
theorem awaits_startHeader (s : State) : (s.startHeader.withStk s.stk 0).Awaits 1 :=
  ⟨Nat.zero_le _, .inl rfl, Nat.zero_le _⟩

/-- `D_HEADER` where `ReadTree` gives an error raises it (R164, R172). -/
theorem execDHeader_of_error {s : State} {i : InStream} {e : Err} (hi : s.inp = some i)
    (h : readTree (s.inRest.length + 1) s.inRest 0 = .error e) : HeaderRaises e s (execDHeader s) := by
  have hfails : HeaderFails e 1 s.inRest 0 := readTree_error h (Nat.lt_succ_self _)
  have hfuel := inRest_length_lt_inputFuel hi
  rw [execDHeader_eq, ← Nat.sub_add_cancel (Nat.one_le_of_lt hfuel)]
  exact headerRaises_after (t := s.startHeader.withStk s.stk 0) rfl
    (headerLoop_fails hfails hi rfl rfl (by omega) (awaits_startHeader s))

/-- `D_HEADER` on the tree header of a single leaf raises (R168). -/
theorem execDHeader_of_leaf {s : State} {i : InStream} {sym : Symbol} {w : Nat} {x : Bits} (hi : s.inp = some i)
    (hrest : s.inRest = serBits (.leaf sym w) ++ x) (hsym : ∀ y ∈ (Trie.leaf sym w).symbols, y.toNat ≤ 256) :
    HeaderRaises .degenerateTree s (execDHeader s) := by
  obtain ⟨stk, hrun⟩ := execDHeader_of_serBits hi hrest hsym (show 1 ≤ 513 by decide)
  have hroot : ((s.startHeader.readSubtree (.leaf sym w)).withStk stk 0).nodes[0]? = some (leafNode sym 0) :=
    Vector.getElem?_setIfInBounds_self_of_lt (show 0 < 513 by decide)
  exact headerRaises_of_eq rfl (hrun.trans (finishHeader_leaf hroot rfl))

/-- A `raise` on an open output answers (R234). -/
theorem raiseErr_of_open {e : Err} {s : State} (hopen : s.OutOpen) :
    raiseErr e s = .next { s with err := e, runState := .error, out := outClosed s [] } := by
  obtain ⟨o, ho, hc, ha⟩ := hopen
  simp [raiseErr, outClose, outClosed, ho, hc, ha]

/-- Where `readHeader` gives an error, `D_HEADER` raises it. -/
theorem execDHeader_raises {s : State} {i : InStream} {e : Err} (hi : s.inp = some i)
    (h : readHeader s.inRest = .error e) : HeaderRaises e s (execDHeader s) := by
  unfold readHeader at h
  split at h
  · rename_i hread
    cases h
    exact execDHeader_of_error hi hread
  · rename_i T x n hread
    obtain ⟨hrest, hsym, -⟩ := readTree_ok hread
    cases T with
    | leaf sym w =>
      cases h
      exact execDHeader_of_leaf hi hrest hsym
    | internal w l r => cases h

/-- What `readHeader` gives is the tree header of a trie with an internal root, with the bits after it (R168, R170). -/
theorem readHeader_ok {b x : Bits} {T : Trie} {n : Nat} (h : readHeader b = .ok (T, x, n)) :
    b = serBits T ++ x ∧ (∀ y ∈ T.symbols, y.toNat ≤ 256) ∧ T.strip = T ∧ n = T.size ∧ T.size ≤ 513 ∧
      T.isInternal = true := by
  unfold readHeader at h
  split at h
  · cases h
  · rename_i hread
    split at h
    · rename_i hroot
      cases h
      obtain ⟨hrest, hsym, hstrip, hcount, hcap⟩ := readTree_ok hread
      rw [Nat.zero_add] at hcount
      exact ⟨hrest, hsym, hstrip, hcount, hcount ▸ hcap, hroot⟩
    · cases h

/-- Settles O36: a header that is good is that of a trie, which the loop reads (O37), and a header that is not fails at
its first bad token, where the loop raises. -/
theorem headerPhaseRefinesReadTree : Obligations.HeaderPhaseRefinesReadTree := by
  intro s i hi hopen
  cases hread : readHeader s.inRest with
  | error e =>
    obtain ⟨u, hrun⟩ := execDHeader_raises hi hread
    have hopen' : (s.withWork u).OutOpen := hopen
    rw [raiseErr_of_open hopen'] at hrun
    exact ⟨_, hrun, rfl, rfl, rfl, rfl, rfl⟩
  | ok p =>
    obtain ⟨T, x, n⟩ := p
    obtain ⟨hrest, hsym, hstrip, rfl, hsize, hroot⟩ := readHeader_ok hread
    cases T with
    | leaf sym w => cases hroot
    | internal w l r =>
      obtain ⟨stk, hrun⟩ := execDHeader_of_internal hi hrest hsym hsize
      have htrie := treeAt_startHeader s hsize
      have hinp := readSubtree_inp (s := s.startHeader) hi (.internal w l r)
      have hleft : (s.startHeader.readSubtree (.internal w l r)).inRest = x := readSubtree_inRest hrest
      rw [hstrip] at htrie
      refine ⟨_, hrun, htrie, Nat.zero_add _, rfl, rfl, rfl, hleft, ?_, ⟨i, _, hi, hinp, rfl⟩, rfl⟩
      rw [SameInput, hi]
      exact congrArg (Option.map fun i => (i.data, i.canRewind)) hinp.symm

end Sys2Proof.Machine
end

section
/-! Rules of the second scan (R183, R184): what the payload loop does with a byte that has a code, with one that has
none and at the end of the input, and `C_PAYLOAD` from them. -/

namespace Sys2Proof.Machine

/-- The codewords of `S` by the code table, in order (R183). -/
def State.codewords (s : State) (S : List Byte) : Bits :=
  S.flatMap fun b => field (s.readCode b.toNat).len (s.readCode b.toNat).val

/-- The state after `S` has been read and its codewords have been written. -/
def State.encodeBytes (s : State) (S : List Byte) : State := (s.advanceBytes S.length).put (s.codewords S)

theorem put_nil (s : State) : s.put [] = s := by
  have hout : outPlus s [] = s.out := by cases ho : s.out <;> simp [outPlus, ho]
  rw [State.put, hout]

theorem outClosed_put (s : State) (a b : Bits) : outClosed (s.put a) b = outClosed s (a ++ b) := by
  cases ho : s.out <;> simp [outClosed, State.put, outPlus, ho]

theorem encodeBytes_nil (s : State) : s.encodeBytes [] = s := (put_nil _).trans (advanceBytes_zero s)

theorem encodeBytes_cons (s : State) (b : Byte) (S : List Byte) :
    s.encodeBytes (b :: S) = ((s.advance 8).put (s.codewords [b])).encodeBytes S := by
  have hcode : s.codewords (b :: S) = s.codewords [b] ++ s.codewords S := by simp [State.codewords]
  rw [State.encodeBytes, List.length_cons, advanceBytes_succ, hcode, ← put_put]
  rfl

theorem encodeBytes_inRest (s : State) (S : List Byte) : (s.encodeBytes S).inRest = s.inRest.drop (8 * S.length) :=
  advanceBytes_inRest s S.length

/-! ## One round of the loop -/

/-- A byte with a code: its codeword is written. -/
theorem payloadLoop_coded {fuel : Nat} {s : State} {i : InStream} {b : Byte} {x : Bits} (hi : s.inp = some i)
    (hrest : s.inRest = byteBits b ++ x) (hcode : (s.readCode b.toNat).len ≠ 0) (hopen : s.OutOpen) :
    payloadLoop (fuel + 1) s = payloadLoop fuel ((s.advance 8).put (s.codewords [b])) := by
  have hcode' : ((s.advance 8).readCode b.toNat).len ≠ 0 := hcode
  have hopen' : (s.advance 8).OutOpen := hopen
  have hword : s.codewords [b] = field ((s.advance 8).readCode b.toNat).len ((s.advance 8).readCode b.toNat).val :=
    List.append_nil _
  simp only [payloadLoop, inBits_byte hi hrest, andThen_of_next, if_neg hcode', outBits_put hopen', hword]

/-- A byte with no code raises (R184). -/
theorem payloadLoop_uncoded {fuel : Nat} {s : State} {i : InStream} {b : Byte} {x : Bits} (hi : s.inp = some i)
    (hrest : s.inRest = byteBits b ++ x) (hcode : (s.readCode b.toNat).len = 0) :
    payloadLoop (fuel + 1) s = raiseErr .noCode (s.advance 8) := by
  have hcode' : ((s.advance 8).readCode b.toNat).len = 0 := hcode
  simp only [payloadLoop, inBits_byte hi hrest, andThen_of_next, if_pos hcode']

/-- With no whole byte left the scan is over. -/
theorem payloadLoop_ends {fuel : Nat} {s : State} {i : InStream} (hi : s.inp = some i) (hrest : s.inRest.length < 8) :
    payloadLoop (fuel + 1) s = .next ((afterEos s 8).setPhase 7) := by
  simp only [payloadLoop, inBits_ends hi hrest, andThen_of_next]

/-- The loop over bytes that all have a code, whatever bits come after them. -/
theorem payloadLoop_bytes {fuel : Nat} {S : List Byte} {x : Bits} {s : State} {i : InStream} (hi : s.inp = some i)
    (hrest : s.inRest = unpackBytes S ++ x) (hcode : ∀ b ∈ S, (s.readCode b.toNat).len ≠ 0) (hopen : s.OutOpen) :
    payloadLoop (fuel + S.length) s = payloadLoop fuel (s.encodeBytes S) := by
  induction S generalizing s i with
  | nil => rw [encodeBytes_nil, List.length_nil, Nat.add_zero]
  | cons b S ih =>
    rw [unpackBytes_cons, List.append_assoc] at hrest
    obtain ⟨hb, hS⟩ := List.forall_mem_cons.mp hcode
    have hopen' : ((s.advance 8).put (s.codewords [b])).OutOpen := outOpen_put (s := s.advance 8) hopen _
    rw [List.length_cons, ← Nat.add_assoc, payloadLoop_coded hi hrest hb hopen, encodeBytes_cons]
    exact ih (advance_inp hi 8) (advance_byte_inRest hrest) hS hopen'

/-! ## `C_PAYLOAD` -/

/-- The state after `InRewind()` on the input `i` (R63). -/
def State.rewound (s : State) (i : InStream) : State :=
  { s with inp := some { i with pos := 0, log := i.log ++ [.rewind] } }

theorem execCPayload_rewound {s : State} {i : InStream} (hi : s.inp = some i) (hr : i.canRewind = true) :
    execCPayload s = payloadLoop (i.data.length + 1) (s.rewound i) := by
  rw [execCPayload, inRewind_of_canRewind hi hr]
  rfl

/-- `C_PAYLOAD` over the first bytes of the input, all of which have a code: what is left of the loop. -/
theorem execCPayload_bytes {s : State} {i : InStream} {S R : List Byte} (hi : s.inp = some i) (hr : i.canRewind = true)
    (hdata : i.data = unpackBytes (S ++ R)) (hcode : ∀ b ∈ S, (s.readCode b.toNat).len ≠ 0) (hopen : s.OutOpen) :
    ((s.rewound i).encodeBytes S).inRest = unpackBytes R ∧
      ∃ fuel, execCPayload s = payloadLoop (fuel + 1) ((s.rewound i).encodeBytes S) := by
  have hsplit : unpackBytes (S ++ R) = unpackBytes S ++ unpackBytes R := List.flatMap_append
  have hrest : (s.rewound i).inRest = unpackBytes S ++ unpackBytes R := by rw [← hsplit, ← hdata]; rfl
  have hfuel : i.data.length + 1 = 7 * S.length + 8 * R.length + 1 + S.length := by
    rw [hdata, unpackBytes_length, List.length_append]
    omega
  refine ⟨?_, 7 * S.length + 8 * R.length, ?_⟩
  · rw [encodeBytes_inRest, hrest, List.drop_left' (unpackBytes_length S)]
  · rw [execCPayload_rewound hi hr, hfuel]
    exact payloadLoop_bytes rfl hrest hcode hopen

/-- `C_PAYLOAD` on a whole-byte input every byte of which has a code (R183). -/
theorem execCPayload_encodes {s : State} {i : InStream} {S : List Byte} (hi : s.inp = some i) (hr : i.canRewind = true)
    (hdata : i.data = unpackBytes S) (hcode : ∀ b ∈ S, (s.readCode b.toNat).len ≠ 0) (hopen : s.OutOpen) :
    execCPayload s = .next ((afterEos ((s.rewound i).encodeBytes S) 8).setPhase 7) := by
  obtain ⟨hrest, fuel, hrun⟩ := execCPayload_bytes (R := []) hi hr (by rw [hdata, List.append_nil]) hcode hopen
  rw [hrun]
  exact payloadLoop_ends rfl (by simp [hrest])

/-- Settles O30: the loop writes the codewords of the bytes before it, reads the byte and raises. -/
theorem uncodedByteEndsThePayload : Obligations.UncodedByteEndsThePayload := by
  intro s i S R b hi hr hdata hcode hb hopen
  obtain ⟨hrest, fuel, hrun⟩ := execCPayload_bytes hi hr hdata hcode hopen
  obtain ⟨j, hj⟩ : ∃ j, ((s.rewound i).encodeBytes S).inp = some j := ⟨_, rfl⟩
  have hb' : (((s.rewound i).encodeBytes S).readCode b.toNat).len = 0 := hb
  rw [payloadLoop_uncoded hj hrest hb'] at hrun
  have hopen' : (((s.rewound i).encodeBytes S).advance 8).OutOpen := outOpen_put (s := s) hopen _
  rw [raiseErr_of_open hopen'] at hrun
  have hout : outClosed (((s.rewound i).encodeBytes S).advance 8) [] = outClosed s (s.codewords S) :=
    (outClosed_put s _ []).trans (by rw [List.append_nil]; rfl)
  have hrest' : (((s.rewound i).encodeBytes S).advance 8).inRest = unpackBytes R := advance_byte_inRest hrest
  refine ⟨_, hrun, rfl, rfl, rfl, hout, hrest', ?_⟩
  cases s
  rfl

end Sys2Proof.Machine
end

section
/-! Rules of the merge of a forest as values (R132 to R136): which trie `takeLeast` takes, one round of `mergeForest`,
and the leaves it keeps. -/

namespace Sys2Proof

/-- The leaves of a forest, trie by trie. -/
def forestLeaves (F : List Trie) : List (Symbol × Nat) := F.flatMap Trie.leafList

/-- `takeLeast` cuts the forest at the trie it takes: those before it weigh more, those after it no less (R134). -/
theorem takeLeast_of_ne_nil {F : List Trie} (hne : F ≠ []) :
    ∃ A m B, F = A ++ m :: B ∧ takeLeast F = some (m, A ++ B) ∧ (∀ T ∈ A, m.weight < T.weight) ∧
      ∀ T ∈ B, m.weight ≤ T.weight := by
  induction F with
  | nil => exact absurd rfl hne
  | cons T F ih =>
    by_cases hF : F = []
    · subst hF
      exact ⟨[], T, [], rfl, rfl, by simp, by simp⟩
    · obtain ⟨A, m, B, rfl, htake, hA, hB⟩ := ih hF
      by_cases hle : T.weight ≤ m.weight
      · refine ⟨[], T, A ++ m :: B, rfl, by simp [takeLeast, htake, hle], by simp, fun U hU => ?_⟩
        rcases List.mem_append.mp hU with hU | hU
        · exact hle.trans (hA U hU).le
        · rcases List.mem_cons.mp hU with rfl | hU
          · exact hle
          · exact hle.trans (hB U hU)
      · refine ⟨T :: A, m, B, rfl, by simp [takeLeast, htake, hle], fun U hU => ?_, hB⟩
        rcases List.mem_cons.mp hU with rfl | hU
        · exact Nat.lt_of_not_le hle
        · exact hA U hU

theorem takeLeast_perm {F G : List Trie} {m : Trie} (h : takeLeast F = some (m, G)) : F.Perm (m :: G) := by
  have hne : F ≠ [] := by
    rintro rfl
    cases h
  obtain ⟨A, n, B, rfl, htake, -, -⟩ := takeLeast_of_ne_nil hne
  rw [htake] at h
  cases h
  exact List.perm_middle

/-- One round of `mergeForest`, where there are two tries to take. -/
theorem mergeForest_join {fuel : Nat} {F G H : List Trie} {a b : Trie} (ha : takeLeast F = some (a, G))
    (hb : takeLeast G = some (b, H)) :
    mergeForest (fuel + 1) F = mergeForest fuel (H ++ [.internal (a.weight + b.weight) a b]) := by
  match F with
  | [] => cases ha
  | [T] =>
    cases ha
    cases hb
  | T :: U :: F => simp only [mergeForest, ha, hb]

theorem mergeForest_single (fuel : Nat) (T : Trie) : mergeForest fuel [T] = some T := by
  cases fuel <;> rfl

/-- What it takes for `mergeForest` to answer: the forest is a single trie, or a round has been done. -/
theorem mergeForest_eq_some {fuel : Nat} {F : List Trie} {T : Trie} (h : mergeForest fuel F = some T) :
    F = [T] ∨ ∃ fuel' a b G H, fuel = fuel' + 1 ∧ takeLeast F = some (a, G) ∧ takeLeast G = some (b, H) ∧
      mergeForest fuel' (H ++ [.internal (a.weight + b.weight) a b]) = some T := by
  unfold mergeForest at h
  split at h
  · exact .inl (by simpa using h)
  · cases h
  · split at h
    · cases h
    · split at h
      · cases h
      · exact .inr ⟨_, _, _, _, _, rfl, ‹_›, ‹_›, h⟩

/-- The merged trie has the leaves of the forest (R139). -/
theorem mergeForest_leaves {fuel : Nat} {F : List Trie} {T : Trie} (h : mergeForest fuel F = some T) :
    T.leafList.Perm (forestLeaves F) := by
  induction fuel generalizing F with
  | zero =>
    obtain rfl | ⟨_, _, _, _, _, hfuel, -⟩ := mergeForest_eq_some h
    · simp [forestLeaves]
    · cases hfuel
  | succ fuel ih =>
    obtain rfl | ⟨_, a, b, G, H, hfuel, ha, hb, hrest⟩ := mergeForest_eq_some h
    · simp [forestLeaves]
    · cases hfuel
      have hperm : F.Perm (a :: b :: H) := (takeLeast_perm ha).trans ((takeLeast_perm hb).cons a)
      calc T.leafList.Perm (forestLeaves (H ++ [.internal (a.weight + b.weight) a b])) := ih hrest
        _ = forestLeaves H ++ (a.leafList ++ b.leafList) := by simp [forestLeaves, Trie.leafList]
        List.Perm _ (a.leafList ++ b.leafList ++ forestLeaves H) := List.perm_append_comm
        _ = forestLeaves (a :: b :: H) := by simp [forestLeaves]
        List.Perm _ (forestLeaves F) := (hperm.flatMap_right _).symm

theorem leafList_length (T : Trie) : T.leafList.length = T.leaves := by
  induction T with
  | leaf sym w => rfl
  | internal w l r ihl ihr => rw [Trie.leafList, List.length_append, ihl, ihr, Trie.leaves]

end Sys2Proof
end

section
/-! `C_BUILD` with two or more positive counts (R139, R140): the live nodes of the store, in the order of their index,
hold the forest that `mergeForest` merges, and every merge keeps it so. -/

namespace Sys2Proof.Machine

/-! ## Tries in the node store -/

/-- Among the first `n` entries of the node store, `T` stands at index `i` (R32). -/
def Stores (nodes : Vector Node 513) (n : Nat) : Trie → Nat → Prop
  | .leaf sym w, i => i < n ∧ nodes[i]? = some (leafNode sym w)
  | .internal w l r, i =>
    i < n ∧ ∃ a b, nodes[i]? = some (internalNode w a b) ∧ Stores nodes n l a ∧ Stores nodes n r b

theorem stores_lt {nodes : Vector Node 513} {n i : Nat} {T : Trie} (h : Stores nodes n T i) : i < n := by
  cases T <;> exact h.1

/-- Entries that are written behind the first `n` leave the tries among those as they were. -/
theorem stores_mono {nodes nodes' : Vector Node 513} {n m i : Nat} {T : Trie} (h : Stores nodes n T i) (hnm : n ≤ m)
    (hkept : ∀ k < n, nodes'[k]? = nodes[k]?) : Stores nodes' m T i := by
  induction T generalizing i with
  | leaf sym w =>
    obtain ⟨hi, hnode⟩ := h
    exact ⟨hi.trans_le hnm, (hkept i hi).trans hnode⟩
  | internal w l r ihl ihr =>
    obtain ⟨hi, a, b, hnode, hl, hr⟩ := h
    exact ⟨hi.trans_le hnm, a, b, (hkept i hi).trans hnode, ihl hl, ihr hr⟩

theorem stores_weight {s : State} {n i : Nat} {T : Trie} (h : Stores s.nodes n T i) : s.weight i = T.weight := by
  cases T with
  | leaf sym w => exact weight_of_readNode h.2
  | internal w l r =>
    obtain ⟨-, a, b, hnode, -, -⟩ := h
    exact weight_of_readNode hnode

/-- A stored trie is what `Tree(i)` reads (R32). -/
theorem treeAt_of_stores {nodes : Vector Node 513} {n i fuel : Nat} {T : Trie} (h : Stores nodes n T i)
    (hdepth : T.depth < fuel) : treeAt fuel nodes i = some T := by
  induction T generalizing i fuel with
  | leaf sym w =>
    obtain ⟨fuel, rfl⟩ := Nat.exists_eq_add_of_lt hdepth
    exact treeAt_of_leaf _ h.2
  | internal w l r ihl ihr =>
    obtain ⟨-, a, b, hnode, hl, hr⟩ := h
    obtain ⟨fuel, rfl⟩ := Nat.exists_eq_add_of_lt hdepth
    rw [Trie.depth] at *
    exact treeAt_of_internal hnode (ihl hl (by omega)) (ihr hr (by omega))

/-! ## The forest of the live nodes -/

/-- The live nodes are those of `P`, in the order of their index, each with the trie that stands there (R28, R132). -/
structure State.Forest (s : State) (P : List (Nat × Trie)) : Prop where
  live : ∀ j, s.readLive j = true ↔ j ∈ P.map Prod.fst
  sorted : (P.map Prod.fst).Pairwise (· < ·)
  stored : ∀ c ∈ P, Stores s.nodes s.nodeCount c.2 c.1

theorem forest_mem_liveSet {s : State} {P : List (Nat × Trie)} (h : s.Forest P) {j : Nat} :
    j ∈ s.liveSet ↔ j ∈ P.map Prod.fst := by
  rw [mem_liveSet, h.live]
  refine and_iff_right_of_imp fun hj => ?_
  obtain ⟨c, hc, rfl⟩ := List.mem_map.mp hj
  exact stores_lt (h.stored c hc)

theorem forest_liveCount {s : State} {P : List (Nat × Trie)} (h : s.Forest P) : s.liveCount = P.length := by
  have hset : s.liveSet = (P.map Prod.fst).toFinset := by
    ext j
    rw [forest_mem_liveSet h, List.mem_toFinset]
  rw [liveCount_eq_card, hset, List.toFinset_card_of_nodup (h.sorted.imp Nat.ne_of_lt), List.length_map]

/-- The new node is the last trie of the forest (R131, R135). -/
theorem forest_addNode {s : State} {P : List (Nat × Trie)} {n : Node} {T : Trie} (h : s.Forest P)
    (hroom : s.nodeCount < 513) (hT : Stores (s.addNode n).nodes (s.nodeCount + 1) T s.nodeCount) :
    (s.addNode n).Forest (P ++ [(s.nodeCount, T)]) where
  live j := by
    by_cases hj : j = s.nodeCount
    · subst hj
      simp [readLive_addNode_same s hroom]
    · rw [readLive_addNode_ne s hj, h.live, List.map_append, List.mem_append]
      simp [hj]
  sorted := by
    rw [List.map_append, List.pairwise_append]
    refine ⟨h.sorted, List.pairwise_singleton _ _, fun j hj k hk => ?_⟩
    rw [List.mem_singleton.mp hk]
    exact (mem_liveSet.mp ((forest_mem_liveSet h).mpr hj)).1
  stored c hc := by
    rcases List.mem_append.mp hc with hc | hc
    · exact stores_mono (h.stored c hc) s.nodeCount.le_succ fun k hk => readNode_addNode_ne s hk.ne n
    · rw [List.mem_singleton.mp hc]
      exact hT

/-- Of two tries of the forest, the one that comes first in the order of weight and place comes first in the order of
R134. -/
theorem forest_before {s : State} {A B : List (Nat × Trie)} {c d : Nat × Trie} (h : s.Forest (A ++ c :: B))
    (hA : ∀ d ∈ A, c.2.weight < d.2.weight) (hB : ∀ d ∈ B, c.2.weight ≤ d.2.weight) (hd : d ∈ A ++ c :: B)
    (hne : d.1 ≠ c.1) : s.before c.1 d.1 = true := by
  rw [before_iff, stores_weight (h.stored c (by simp)), stores_weight (h.stored d hd)]
  rcases List.mem_append.mp hd with hd | hd
  · exact .inl (hA d hd)
  · rcases List.mem_cons.mp hd with rfl | hd
    · exact absurd rfl hne
    · have hlt : c.1 < d.1 := by
        have hsorted := h.sorted
        rw [List.map_append, List.map_cons, List.pairwise_append, List.pairwise_cons] at hsorted
        exact hsorted.2.1.1 d.1 (List.mem_map_of_mem hd)
      have hle := hB d hd
      omega

/-- `ExtractMin` takes out of the store what `takeLeast` takes out of the forest (R133, R134). -/
theorem forest_extractMin {s : State} {P : List (Nat × Trie)} (h : s.Forest P) (hne : P ≠ []) :
    ∃ c Q, P.Perm (c :: Q) ∧ takeLeast (P.map Prod.snd) = some (c.2, Q.map Prod.snd) ∧ (extractMin s).1 = c.1 ∧
      (s.writeLive c.1 false).Forest Q := by
  obtain ⟨A', m, B', hsplit, htake, hA, hB⟩ := takeLeast_of_ne_nil (F := P.map Prod.snd) (by simpa using hne)
  obtain ⟨A, D, rfl, rfl, hD⟩ := List.map_eq_append_iff.mp hsplit
  obtain ⟨c, B, rfl, rfl, rfl⟩ := List.map_eq_cons_iff.mp hD
  rw [List.forall_mem_map] at hA hB
  have hc : c.1 ∈ s.liveSet := (forest_mem_liveSet h).mpr (by simp)
  obtain ⟨hmem, hleast⟩ := extractMin_least ⟨c.1, hc⟩
  have hmin : (extractMin s).1 = c.1 := by
    by_contra hne
    obtain ⟨d, hd, hdc⟩ := List.mem_map.mp ((forest_mem_liveSet h).mp hmem)
    have hcd : s.before c.1 d.1 = true := forest_before h hA hB hd (hdc ▸ hne)
    have hdc' := hleast c.1 hc (Ne.symm hne)
    rw [← hdc] at hdc'
    rw [before_iff] at hcd hdc'
    omega
  have hsub : (A ++ B).Sublist (A ++ c :: B) := (List.sublist_cons_self c B).append_left A
  have hfresh : c.1 ∉ (A ++ B).map Prod.fst := by
    have hnodup : ((A ++ c :: B).map Prod.fst).Nodup := h.sorted.imp Nat.ne_of_lt
    rw [(List.perm_middle.map Prod.fst).nodup_iff, List.map_cons, List.nodup_cons] at hnodup
    exact hnodup.1
  refine ⟨c, A ++ B, List.perm_middle, by rw [htake, List.map_append], hmin, ?_, h.sorted.sublist (hsub.map _),
    fun d hd => h.stored d (hsub.subset hd)⟩
  intro j
  rw [readLive_writeLive_false, h.live, (List.perm_middle.map Prod.fst).mem_iff, List.map_cons, List.mem_cons]
  constructor
  · rintro ⟨hj, rfl | hmem⟩
    · exact absurd rfl hj
    · exact hmem
  · intro hj
    exact ⟨fun he => hfresh (he ▸ hj), .inr hj⟩

/-- A new internal node over two stored tries holds the trie that joins them (R135, R136). -/
theorem forest_addInternal {s : State} {P : List (Nat × Trie)} {A B : Trie} {a b w : Nat} (h : s.Forest P)
    (hroom : s.nodeCount < 513) (ha : Stores s.nodes s.nodeCount A a) (hb : Stores s.nodes s.nodeCount B b) :
    (s.addNode (internalNode w a b)).Forest (P ++ [(s.nodeCount, .internal w A B)]) := by
  have hkept : ∀ k < s.nodeCount, (s.addNode (internalNode w a b)).nodes[k]? = s.nodes[k]? :=
    fun k hk => readNode_addNode_ne s hk.ne _
  exact forest_addNode h hroom ⟨s.nodeCount.lt_succ_self, a, b, readNode_addNode_same s hroom _,
    stores_mono ha s.nodeCount.le_succ hkept, stores_mono hb s.nodeCount.le_succ hkept⟩

/-- One merge in the store is one round of `mergeForest` (R132, R135, R136). -/
theorem forest_mergeOnce {s : State} {P : List (Nat × Trie)} (h : s.Forest P) (hroom : s.nodeCount < 513)
    (hlen : 2 ≤ P.length) :
    ∃ Q T, Q.length + 2 = P.length ∧ (mergeOnce s).nodeCount = s.nodeCount + 1 ∧
      (mergeOnce s).Forest (Q ++ [(s.nodeCount, T)]) ∧
      ∀ fuel, mergeForest (fuel + 1) (P.map Prod.snd) = mergeForest fuel ((Q ++ [(s.nodeCount, T)]).map Prod.snd) := by
  obtain ⟨a, P', hperm, htake, hmin, hforest⟩ := forest_extractMin h (by rintro rfl; simp at hlen)
  have hlen' := hperm.length_eq
  rw [List.length_cons] at hlen'
  obtain ⟨b, Q, hperm', htake', hmin', hforest'⟩ := forest_extractMin hforest (by rintro rfl; simp at hlen'; omega)
  have hlen'' := hperm'.length_eq
  rw [List.length_cons] at hlen''
  have hmin₂ : (extractMin (extractMin s).2).1 = b.1 := by rw [extractMin_snd, hmin]; exact hmin'
  have ha : Stores s.nodes s.nodeCount a.2 a.1 := h.stored a (hperm.mem_iff.mpr List.mem_cons_self)
  have hb : Stores s.nodes s.nodeCount b.2 b.1 := hforest.stored b (hperm'.mem_iff.mpr List.mem_cons_self)
  have hmerge := mergeOnce_eq hmin hmin₂
  rw [stores_weight ha, stores_weight hb] at hmerge
  refine ⟨Q, .internal (a.2.weight + b.2.weight) a.2 b.2, by omega, by rw [hmerge]; rfl, ?_, fun fuel => ?_⟩
  · rw [hmerge]
    exact forest_addInternal hforest' hroom ha hb
  · rw [mergeForest_join htake htake', List.map_append]
    rfl

/-- The merge loop does in the store what `mergeForest` does on the forest; the trie that is left stands at the last
index in use (R132, R139). -/
theorem forest_mergeLoop {s : State} {Q : List (Nat × Trie)} {m fuel : Nat} {T : Trie} (h : s.Forest (Q ++ [(m, T)]))
    (hcount : s.nodeCount = m + 1) (hroom : m + Q.length < 513) (hfuel : Q.length ≤ fuel) :
    ∃ U, mergeForest fuel ((Q ++ [(m, T)]).map Prod.snd) = some U ∧
      (mergeLoop fuel s).nodeCount = m + Q.length + 1 ∧ (mergeLoop fuel s).Forest [(m + Q.length, U)] := by
  induction fuel generalizing s Q m T with
  | zero =>
    obtain rfl : Q = [] := List.eq_nil_of_length_eq_zero (Nat.le_zero.mp hfuel)
    exact ⟨T, rfl, hcount, h⟩
  | succ fuel ih =>
    have hlive := forest_liveCount h
    rw [List.length_append, List.length_singleton] at hlive
    cases Q with
    | nil =>
      have hdone : ¬ s.liveCount > 1 := by simp [hlive]
      rw [mergeLoop, if_neg hdone]
      exact ⟨T, rfl, hcount, h⟩
    | cons c Q =>
      rw [List.length_cons] at hlive hroom hfuel
      have hmore : s.liveCount > 1 := by omega
      obtain ⟨Q', T', hlen, hcount', hforest, hmerge⟩ := forest_mergeOnce h (by omega) (by simp)
      simp only [List.length_append, List.length_cons, List.length_nil] at hlen
      have hQ : Q'.length = Q.length := by omega
      rw [hcount] at hforest hcount' hmerge
      obtain ⟨U, hU, hcountU, hforestU⟩ := ih hforest hcount' (by omega) (by omega)
      rw [mergeLoop, if_pos hmore, hmerge]
      have hlast : m + (Q.length + 1) = m + 1 + Q'.length := by omega
      rw [List.length_cons, hlast]
      exact ⟨U, hU, hcountU, hforestU⟩

/-! ## The leaves -/

/-- The leaves of `L`, with the indices that the builder gives them (R131). -/
def leafForest (L : List (Symbol × Nat)) : List (Nat × Trie) := L.mapIdx fun k c => (k, .leaf c.1 c.2)

theorem leafForest_concat (L : List (Symbol × Nat)) (c : Symbol × Nat) :
    leafForest (L ++ [c]) = leafForest L ++ [(L.length, .leaf c.1 c.2)] := List.mapIdx_concat

theorem leafForest_length (L : List (Symbol × Nat)) : (leafForest L).length = L.length := List.length_mapIdx

theorem leafForest_tries (L : List (Symbol × Nat)) : (leafForest L).map Prod.snd = L.map fun c => .leaf c.1 c.2 := by
  induction L using List.reverseRecOn with
  | nil => rfl
  | append_singleton L c ih => rw [leafForest_concat, List.map_append, List.map_append, ih]; rfl

theorem forest_emptyStore (s : State) : s.emptyStore.Forest [] where
  live j := by by_cases hj : j < 513 <;> simp [State.readLive, hj]
  sorted := List.Pairwise.nil
  stored _ hc := nomatch hc

/-- The leaves placed in the empty store are a forest of leaves (R131). -/
theorem forest_addLeaves (s : State) (L : List (Symbol × Nat)) (hroom : L.length ≤ 513) :
    (L.foldl State.addLeaf s.emptyStore).nodeCount = L.length ∧
      (L.foldl State.addLeaf s.emptyStore).Forest (leafForest L) := by
  induction L using List.reverseRecOn with
  | nil => exact ⟨rfl, forest_emptyStore s⟩
  | append_singleton L c ih =>
    rw [List.length_append, List.length_singleton] at hroom ⊢
    obtain ⟨hcount, hforest⟩ := ih (by omega)
    have hfree : (L.foldl State.addLeaf s.emptyStore).nodeCount < 513 := by omega
    rw [List.foldl_append, leafForest_concat, ← hcount]
    refine ⟨rfl, forest_addNode hforest hfree ⟨Nat.lt_succ_self _, ?_⟩⟩
    exact readNode_addNode_same _ hfree _

/-! ## `C_BUILD` -/

/-- The state with the node store, the `LIVE` bits and `NODE_COUNT` of `u`: what the builder works on (R27, R28). -/
def State.withStore (s u : State) : State := { s with nodes := u.nodes, live := u.live, nodeCount := u.nodeCount }

/-- `u` is `s` but for what the builder works on. -/
def BuildsOn (s u : State) : Prop := s.withStore u = u

theorem buildsOn_trans {s t u : State} (hst : BuildsOn s t) (htu : BuildsOn t u) : BuildsOn s u := by
  rw [BuildsOn, ← htu, ← hst]
  rfl

theorem buildsOn_writeLive (s : State) (i : Nat) (b : Bool) : BuildsOn s (s.writeLive i b) := rfl

theorem buildsOn_addNode (s : State) (n : Node) : BuildsOn s (s.addNode n) := rfl

theorem buildsOn_mergeOnce (s : State) : BuildsOn s (mergeOnce s) := by
  rw [mergeOnce_eq rfl rfl]
  exact buildsOn_trans (buildsOn_trans (buildsOn_writeLive s _ _) (buildsOn_writeLive _ _ _)) (buildsOn_addNode _ _)

theorem buildsOn_placeLeaves (s : State) : BuildsOn s s.placeLeaves := by
  rw [placeLeaves_eq_foldl]
  induction positives s.freq using List.reverseRecOn with
  | nil => exact rfl
  | append_singleton L c ih =>
    rw [List.foldl_append]
    exact buildsOn_trans ih (buildsOn_addNode _ _)

theorem buildsOn_mergeLoop (fuel : Nat) (s : State) : BuildsOn s (mergeLoop fuel s) := by
  induction fuel generalizing s with
  | zero => exact rfl
  | succ fuel ih =>
    rw [mergeLoop]
    split
    · exact buildsOn_trans (buildsOn_mergeOnce s) (ih _)
    · exact rfl

/-- There is one count a Symbol at most (R26). -/
theorem positives_length (freq : Vector Nat 257) : (positives freq).length ≤ 257 := by
  rw [positives, List.length_map]
  exact (List.length_filter_le _ _).trans (by simp)

theorem huffman_of_many {L : List (Symbol × Nat)} (h : 2 ≤ L.length) :
    huffman L = mergeForest L.length (L.map fun c => .leaf c.1 c.2) := by
  match L with
  | _ :: _ :: _ => rfl

/-- The trie of two or more leaves has exactly these leaves (R139). -/
theorem huffman_leafList {L : List (Symbol × Nat)} {T : Trie} (hL : 2 ≤ L.length) (h : huffman L = some T) :
    T.leafList.Perm L := by
  have hperm := mergeForest_leaves ((huffman_of_many hL).symm.trans h)
  have hleaves : forestLeaves (L.map fun c => Trie.leaf c.1 c.2) = L := by
    simp [forestLeaves, List.flatMap_map, Trie.leafList]
  rwa [hleaves] at hperm

/-- A trie with at most 257 leaves has at most 513 nodes. -/
theorem size_le_of_leaves {T : Trie} (h : T.leaves ≤ 257) : T.size ≤ 513 := by
  have hproper := leaves_eq_internals_succ T
  rw [Trie.size]
  omega

/-- `C_BUILD` with two or more positive counts, as far as the trie and the frame go (R139, R140). -/
theorem execCBuild_of_many {s : State} (h : 2 ≤ (positives s.freq).length) :
    ∃ u T, execCBuild s = .next (s.withStore u).finishBuild ∧ huffman (positives s.freq) = some T ∧
      (s.withStore u).finishBuild.trie = some T ∧ T.leafList.Perm (positives s.freq) := by
  have hle := positives_length s.freq
  obtain ⟨L, c, hL⟩ : ∃ L c, positives s.freq = L ++ [c] :=
    ⟨_, _, (List.dropLast_append_getLast (List.ne_nil_of_length_pos (by omega))).symm⟩
  obtain ⟨hcount, hforest⟩ := forest_addLeaves s (positives s.freq) (by omega)
  rw [← placeLeaves_eq_foldl] at hcount hforest
  have hlen : (positives s.freq).length = L.length + 1 := by rw [hL, List.length_append, List.length_singleton]
  rw [hL, leafForest_concat] at hforest
  rw [hlen] at hcount
  obtain ⟨T, hmerge, hcountT, hforestT⟩ := forest_mergeLoop (fuel := s.placeLeaves.nodeCount) hforest hcount
    (by rw [leafForest_length]; omega) (by rw [leafForest_length]; omega)
  rw [← leafForest_concat, leafForest_tries, ← hL, hcount, ← hlen] at hmerge
  rw [leafForest_length] at hcountT hforestT
  have hhuffman := (huffman_of_many h).trans hmerge
  have hperm := huffman_leafList h hhuffman
  have hsize : T.size ≤ 513 := size_le_of_leaves (by rw [← leafList_length, hperm.length_eq]; omega)
  have hdepth := two_mul_depth_lt_size T
  have hbuild : BuildsOn s (mergeLoop s.placeLeaves.nodeCount s.placeLeaves) :=
    buildsOn_trans (buildsOn_placeLeaves s) (buildsOn_mergeLoop _ _)
  refine ⟨mergeLoop s.placeLeaves.nodeCount s.placeLeaves, T, ?_, hhuffman, ?_, hperm⟩
  · have hzero : s.placeLeaves.nodeCount ≠ 0 := by omega
    have hone : s.placeLeaves.nodeCount ≠ 1 := by omega
    rw [hbuild]
    simp only [execCBuild, if_neg hzero, if_neg hone]
  · rw [hbuild, State.trie, finishBuild_root, finishBuild_nodes, hcountT]
    exact treeAt_of_stores (hforestT.stored _ (List.mem_singleton_self _)) (by omega)

end Sys2Proof.Machine
end

section
/-! The trie that COMPRESS works with: what `C_BUILD` makes of counts that hold the sentinel's (R122, R139), and the
codewords that `C_CODES` leaves for it (R151, R187). -/

namespace Sys2Proof

/-- What the phases after `C_BUILD` need of a trie that encodes the Symbols of `L` (R31, R140, R173). -/
structure Trie.Encodes (T : Trie) (L : List Symbol) : Prop where
  internal : T.isInternal = true
  size_le : T.size ≤ 513
  nodup : T.symbols.Nodup
  symbol_le : ∀ x ∈ T.symbols, x.toNat ≤ 256
  covers : ∀ x ∈ L, x ∈ T.symbols

/-- `Code(x)` is the path to the leaf of `x`, where the Symbols are distinct (R187). -/
theorem code_of_mem_paths {T : Trie} {x : Symbol} {p : Bits} (hdistinct : T.symbols.Nodup) (h : (x, p) ∈ T.paths) :
    T.code x = p := by
  rw [← paths_map_fst] at hdistinct
  cases hfind : T.paths.find? fun c => c.1 = x with
  | none => simpa using List.find?_eq_none.mp hfind _ h
  | some c =>
    have hx : c.1 = x := by simpa using List.find?_some hfind
    have hc : c = (x, p) := List.inj_on_of_nodup_map hdistinct (List.mem_of_find?_eq_some hfind) h hx
    simp [Trie.code, hfind, hc]

/-- Under an internal root no path is empty (R137). -/
theorem path_ne_nil {T : Trie} {x : Symbol} {p : Bits} (hroot : T.isInternal = true) (h : (x, p) ∈ T.paths) :
    p ≠ [] := by
  cases T with
  | leaf sym w => cases hroot
  | internal w l r => obtain ⟨q, -, rfl⟩ | ⟨q, -, rfl⟩ := mem_paths_internal.mp h <;> exact List.cons_ne_nil _ _

namespace Machine

/-! ## The positive counts -/

theorem mem_positives {freq : Vector Nat 257} {x : Symbol} {w : Nat} :
    (x, w) ∈ positives freq ↔ freq[x.toNat]? = some w ∧ 0 < w := by
  simp only [positives, List.mem_map, List.mem_filter, Prod.exists, decide_eq_true_eq, Prod.mk.injEq,
    List.mem_zipIdx_iff_getElem?, Vector.getElem?_toList]
  constructor
  · rintro ⟨w, v, ⟨hv, hw⟩, rfl, rfl⟩
    obtain ⟨hlt, -⟩ := Vector.getElem?_eq_some_iff.mp hv
    rw [BitVec.toNat_ofNat, Nat.mod_eq_of_lt (by omega)]
    exact ⟨hv, hw⟩
  · rintro ⟨hx, hw⟩
    exact ⟨w, x.toNat, ⟨hx, hw⟩, BitVec.ofNat_toNat .., rfl⟩

/-- The Symbols with a positive count are distinct. -/
theorem positives_nodup (freq : Vector Nat 257) : ((positives freq).map Prod.fst).Nodup := by
  have hindices : ((freq.toList.zipIdx.filter fun c => 0 < c.1).map Prod.snd).Sublist (List.range' 0 257) := by
    have hsub := (List.filter_sublist (p := fun c => 0 < c.1) (l := freq.toList.zipIdx)).map Prod.snd
    rwa [List.zipIdx_map_snd, Vector.length_toList] at hsub
  have hlt : ∀ v ∈ (freq.toList.zipIdx.filter fun c => 0 < c.1).map Prod.snd, v < 2 ^ 9 := fun v hv => by
    have hv' := List.mem_range'_1.mp (hindices.subset hv)
    omega
  have hsymbols : (positives freq).map Prod.fst =
      ((freq.toList.zipIdx.filter fun c => 0 < c.1).map Prod.snd).map (BitVec.ofNat 9) := by
    simp only [positives, List.map_map, Function.comp_def]
  rw [hsymbols]
  refine (hindices.nodup List.nodup_range').map_on fun v hv u hu hvu => ?_
  have hnat := congrArg BitVec.toNat hvu
  rwa [BitVec.toNat_ofNat, BitVec.toNat_ofNat, Nat.mod_eq_of_lt (hlt v hv), Nat.mod_eq_of_lt (hlt u hu)] at hnat

theorem positives_symbol_le {freq : Vector Nat 257} {x : Symbol} (h : x ∈ (positives freq).map Prod.fst) :
    x.toNat ≤ 256 := by
  obtain ⟨⟨y, w⟩, hmem, rfl⟩ := List.mem_map.mp h
  obtain ⟨hlt, -⟩ := Vector.getElem?_eq_some_iff.mp (mem_positives.mp hmem).1
  exact Nat.le_of_lt_succ hlt

/-! ## The trie of `C_BUILD` -/

/-- The trie of two or more leaves with distinct Symbols. -/
theorem encodes_of_perm {T : Trie} {freq : Vector Nat 257} (hL : 2 ≤ (positives freq).length)
    (h : T.leafList.Perm (positives freq)) : T.Encodes ((positives freq).map Prod.fst) := by
  have hsym : T.symbols.Perm ((positives freq).map Prod.fst) := h.map Prod.fst
  have hleaves : T.leaves = (positives freq).length := (leafList_length T).symm.trans h.length_eq
  have hle := positives_length freq
  refine ⟨?_, size_le_of_leaves (by omega), hsym.nodup_iff.mpr (positives_nodup freq),
    fun x hx => positives_symbol_le (hsym.mem_iff.mp hx), fun x hx => hsym.mem_iff.mpr hx⟩
  cases T with
  | leaf sym w =>
    rw [Trie.leaves] at hleaves
    omega
  | internal w l r => rfl

/-- The sentinel alone beside the phantom leaf (R137). -/
theorem encodes_sole (w : Nat) : (Trie.internal w (.leaf 256 w) (.leaf 0 0)).Encodes [256] where
  internal := rfl
  size_le := show 3 ≤ 513 by decide
  nodup := show [(256 : Symbol), 0].Nodup by decide
  symbol_le := show ∀ x ∈ [(256 : Symbol), 0], x.toNat ≤ 256 by decide
  covers := show ∀ x ∈ [(256 : Symbol)], x ∈ [(256 : Symbol), 0] by decide

/-- `C_BUILD` on counts that hold the sentinel's makes the trie of `huffman`, and changes nothing but the store, `ROOT`
and the phase (R137, R139). -/
theorem execCBuild_builds {s : State} (h : (256 : Symbol) ∈ (positives s.freq).map Prod.fst) :
    ∃ u T, execCBuild s = .next (s.withStore u).finishBuild ∧ huffman (positives s.freq) = some T ∧
      (s.withStore u).finishBuild.trie = some T ∧ T.Encodes ((positives s.freq).map Prod.fst) := by
  match hL : positives s.freq with
  | [] => simp [hL] at h
  | [(x, w)] =>
    rw [hL, List.map_singleton, List.mem_singleton] at h
    subst h
    have htrie := treeAt_of_internal (wrappedStore_root s.nodes 256 w)
      (treeAt_of_leaf 255 (wrappedStore_leaf s.nodes 256 w)) (treeAt_of_leaf 255 (wrappedStore_phantom s.nodes 256 w))
    exact ⟨{ s with
      nodes := wrappedStore s.nodes 256 w
      live := (Vector.replicate 513 false).setIfInBounds 2 true
      nodeCount := 3 }, _, execCBuild_of_sole hL, rfl, htrie, encodes_sole w⟩
  | c :: d :: L =>
    have hlen : 2 ≤ (positives s.freq).length := by rw [hL]; simp
    obtain ⟨u, T, hrun, hhuffman, htrie, hperm⟩ := execCBuild_of_many hlen
    rw [← hL]
    exact ⟨u, T, hrun, hhuffman, htrie, encodes_of_perm hlen hperm⟩

/-! ## The codewords -/

/-- A byte is the Symbol of the same number (R9). -/
theorem toNat_byteSymbol (b : Byte) : (b.zeroExtend 9).toNat = b.toNat := BitVec.toNat_setWidth_of_le (by decide)

/-- The entry of a Symbol in the table of `C_CODES` is its codeword, which is not empty (R151, R187). -/
theorem readCode_codeTable {s : State} {T : Trie} {L : List Symbol} {x : Symbol} (hcode : s.code = codeTable T)
    (hT : T.Encodes L) (hx : x ∈ L) :
    (s.readCode x.toNat).len ≠ 0 ∧ field (s.readCode x.toNat).len (s.readCode x.toNat).val = T.code x := by
  have hleaf := hT.covers x hx
  obtain ⟨p, hp⟩ := exists_path_of_mem_symbols hleaf
  have hdistinct : (T.paths.map Prod.fst).Nodup := by
    rw [paths_map_fst]
    exact hT.nodup
  have hentry : s.readCode x.toNat = ⟨p.length, value p⟩ := by
    rw [State.readCode, hcode, codeTable, bindAll_of_mem hdistinct (hT.symbol_le x hleaf) hp]
    rfl
  rw [hentry, code_of_mem_paths hT.nodup hp]
  exact ⟨fun h => path_ne_nil hT.internal hp (List.length_eq_zero_iff.mp h), field_value p⟩

/-- The codewords of the bytes of an input, by the table and by the trie. -/
theorem codewords_codeTable {s : State} {T : Trie} {L : List Symbol} {S : List Byte} (hcode : s.code = codeTable T)
    (hT : T.Encodes L) (hS : ∀ b ∈ S, b.zeroExtend 9 ∈ L) :
    (∀ b ∈ S, (s.readCode b.toNat).len ≠ 0) ∧ s.codewords S = S.flatMap fun b => T.code (b.zeroExtend 9) := by
  have hentry := fun b hb => readCode_codeTable hcode hT (hS b hb)
  simp only [toNat_byteSymbol] at hentry
  exact ⟨fun b hb => (hentry b hb).1, List.flatMap_congr fun b hb => (hentry b hb).2⟩

/-! ## The counts of an input -/

/-- The counts of `S` (R122, R125). -/
def countTable (S : List Byte) : Vector Nat 257 := Vector.ofFn fun k => countOf S k.val

theorem sentinel_mem_positives (S : List Byte) : (256 : Symbol) ∈ (positives (countTable S)).map Prod.fst :=
  List.mem_map.mpr ⟨(256, 1), mem_positives.mpr ⟨by simp [countTable, countOf], Nat.one_pos⟩, rfl⟩

theorem byte_mem_positives {S : List Byte} {b : Byte} (h : b ∈ S) :
    b.zeroExtend 9 ∈ (positives (countTable S)).map Prod.fst := by
  have hlt : b.toNat < 256 := b.isLt
  have hcount : (countTable S)[(b.zeroExtend 9).toNat]? = some (S.count b) := by
    rw [toNat_byteSymbol, countTable, Vector.getElem?_ofFn, dif_pos (by omega)]
    simp [countOf, hlt.ne]
  exact List.mem_map.mpr ⟨_, mem_positives.mpr ⟨hcount, List.count_pos_iff.mpr h⟩, rfl⟩

end Machine

end Sys2Proof
end

section
/-! The file of a closed output (R67, R69): unpacking its bytes gives the bits and the padding back. -/

namespace Sys2Proof

/-- Eight bits are the bits of the byte they spell (R67, R69). -/
theorem byteBits_of_value {x : Bits} (hx : x.length = 8) : byteBits (BitVec.ofNat 8 (value x)) = x := by
  have hfield := field_value x
  rw [hx] at hfield
  rw [byteBits, BitVec.toNat_ofNat, field_mod 8 8 _ (Nat.le_refl 8), hfield]

theorem packBytes_append {x : Bits} (hx : x.length = 8) (y : Bits) :
    packBytes (x ++ y) = BitVec.ofNat 8 (value x) :: packBytes y := by
  match x, hx with
  | [_, _, _, _, _, _, _, _], _ => rfl

/-- Packing whole bytes loses no bit. -/
theorem unpackBytes_packBytes {k : Nat} {b : Bits} (h : b.length = 8 * k) : unpackBytes (packBytes b) = b := by
  induction k generalizing b with
  | zero =>
    obtain rfl : b = [] := List.eq_nil_of_length_eq_zero h
    rfl
  | succ k ih =>
    have htake : (b.take 8).length = 8 := by rw [List.length_take]; omega
    have hdrop : (b.drop 8).length = 8 * k := by rw [List.length_drop]; omega
    calc unpackBytes (packBytes b)
        = unpackBytes (packBytes (b.take 8 ++ b.drop 8)) := by rw [List.take_append_drop]
      _ = b.take 8 ++ b.drop 8 := by rw [packBytes_append htake, unpackBytes_cons, byteBits_of_value htake, ih hdrop]
      _ = b := List.take_append_drop 8 b

namespace Machine

/-- The file of a closed output (R67, R68, R69). -/
theorem unpackBytes_file {o : OutStream} (hc : o.closed = true) : unpackBytes o.file = o.bits ++ padFor o.bits := by
  rw [OutStream.file, if_pos hc]
  refine unpackBytes_packBytes (k := (o.bits.length + 7) / 8) ?_
  rw [List.length_append, padFor, List.length_replicate]
  omega

end Machine

end Sys2Proof
end

section
/-! The run of COMPRESS (R180 to R189): each of its eight phases takes a running compression to the next phase, with
more bits on OUT and more transactions on IN. -/

namespace Sys2Proof.Machine

/-! ## A running compression -/

/-- The IN transactions of a whole scan of `n` bytes (R189). -/
def scanLog (n : Nat) : List InTx := .rewind :: List.replicate (n + 1) (.bits 8)

/-- COMPRESS is at the start of phase `p` on the input `i`; it has written the bits `b` and made the IN transactions
`log`. -/
structure State.Compressing (s : State) (i : InStream) (p : BitVec 4) (b : Bits) (log : List InTx) : Prop where
  host : s.host = []
  runState : s.runState = .busy
  err : s.err = .none
  phase : s.phase = p
  out : s.out = some ⟨b, false, false⟩
  inp : ∃ pos, s.inp = some { i with pos := pos, log := i.log ++ log }

section Phases

variable {s : State} {i : InStream} {p : BitVec 4} {b : Bits} {log : List InTx}

theorem compressing_outOpen (h : s.Compressing i p b log) : s.OutOpen := ⟨_, h.out, rfl, rfl⟩

/-- The step of a running compression is its phase (R24). -/
theorem compressing_step (h : s.Compressing i p b log) {instr : Instr} (hdecode : decodePhase p = .ok instr) :
    step s = exec instr s := by
  rw [← h.phase] at hdecode
  simp only [step, fetch, h.host, fetchCore, h.runState, if_true, hdecode]

theorem compressing_setPhase (h : s.Compressing i p b log) (q : BitVec 4) : (s.setPhase q).Compressing i q b log :=
  ⟨h.host, h.runState, h.err, rfl, h.out, h.inp⟩

theorem compressing_put (h : s.Compressing i p b log) (c : Bits) : (s.put c).Compressing i p (b ++ c) log :=
  ⟨h.host, h.runState, h.err, h.phase, by simp [State.put, outPlus, h.out], h.inp⟩

/-- The input after a whole scan of `n` bytes. -/
theorem scanned_inp {s : State} {j : InStream} (n : Nat) :
    ∃ pos, (afterEos ((s.rewound j).advanceBytes n) 8).inp = some { j with pos := pos, log := j.log ++ scanLog n } :=
  ⟨_, by simp [afterEos, State.advanceBytes, State.rewound, scanLog, List.replicate_succ']; rfl⟩

/-! ## The phases -/

/-- The write of the command starts a compression (R180). -/
theorem compressing_starts (hidle : s.runState ≠ .busy) (hhost : s.host = [.write 0x0 0x01]) (hi : s.inp = some i)
    (ho : s.out = some ⟨[], false, false⟩) : ∃ t, step s = .next t ∧ t.Compressing i 1 [] [] := by
  have hrun : step s = .next (State.accept { s with host := [] } 0x01 1) := by
    simp [step, fetch, hhost, fetchWrite, hostReg, decodeCmd, exec, execCompress, startCommand, hidle]
  exact ⟨_, hrun, rfl, rfl, rfl, rfl, ho, i.pos, by rw [List.append_nil]; exact hi⟩

/-- The table that `C_FREQ` leaves. -/
theorem countInto_eq_countTable (S : List Byte) :
    (countInto (Vector.replicate 257 0) S).setIfInBounds 256 1 = countTable S := by
  ext v hv
  obtain ⟨_, hentry⟩ := Vector.getElem?_eq_some_iff.mp (countInto_finished S (Nat.le_of_lt_succ hv))
  rw [hentry, countTable, Vector.getElem_ofFn]

/-- `C_FREQ` (R121, R122). -/
theorem compressing_counts {S : List Byte} (h : s.Compressing i 1 b log) (hr : i.canRewind = true)
    (hdata : i.data = unpackBytes S) (hlen : S.length ≤ Config.maxIn) :
    ∃ t, step s = .next t ∧ t.Compressing i 2 b (log ++ scanLog S.length) ∧ t.freq = countTable S := by
  obtain ⟨pos, hi⟩ := h.inp
  have hrun := execCFreq_counts hi hr hdata hlen
  obtain ⟨pos', hscan⟩ := scanned_inp (s := s) (j := { i with pos := pos, log := i.log ++ log }) S.length
  rw [List.append_assoc] at hscan
  exact ⟨_, (compressing_step h rfl).trans hrun, ⟨h.host, h.runState, h.err, rfl, h.out, pos', hscan⟩,
    countInto_eq_countTable S⟩

/-- `C_BUILD` (R139). -/
theorem compressing_builds (h : s.Compressing i 2 b log) (hfreq : (256 : Symbol) ∈ (positives s.freq).map Prod.fst) :
    ∃ t T, step s = .next t ∧ t.Compressing i 3 b log ∧ huffman (positives s.freq) = some T ∧ t.trie = some T ∧
      T.Encodes ((positives s.freq).map Prod.fst) := by
  obtain ⟨u, T, hrun, hhuffman, htrie, hT⟩ := execCBuild_builds hfreq
  exact ⟨_, T, (compressing_step h rfl).trans hrun, ⟨h.host, h.runState, h.err, rfl, h.out, h.inp⟩, hhuffman, htrie, hT⟩

/-- `C_CODES` (R151). -/
theorem compressing_codes {T : Trie} {L : List Symbol} (h : s.Compressing i 3 b log) (htrie : s.trie = some T)
    (hT : T.Encodes L) :
    ∃ t, step s = .next t ∧ t.Compressing i 4 b log ∧ t.trie = some T ∧ t.code = codeTable T := by
  obtain ⟨stk, hrun⟩ := execCCodes_of_trie htrie hT.size_le hT.symbol_le
  exact ⟨_, (compressing_step h rfl).trans hrun, ⟨h.host, h.runState, h.err, rfl, h.out, h.inp⟩, htrie, rfl⟩

/-- `C_MAGIC` (R182). -/
theorem compressing_magic (h : s.Compressing i 4 b log) :
    ∃ t, step s = .next t ∧ t.Compressing i 5 (b ++ field 32 Config.magic.toNat) log ∧ t.trie = s.trie ∧
      t.code = s.code := by
  have hrun : execCMagic s = .next ((s.put (field 32 Config.magic.toNat)).setPhase 5) := by
    rw [execCMagic, outBits_put (compressing_outOpen h), andThen_of_next]
  exact ⟨_, (compressing_step h rfl).trans hrun, compressing_setPhase (compressing_put h _) 5, rfl, rfl⟩

/-- `C_HEADER` (R161). -/
theorem compressing_header {T : Trie} (h : s.Compressing i 5 b log) (htrie : s.trie = some T) (hsize : T.size ≤ 513) :
    ∃ t, step s = .next t ∧ t.Compressing i 6 (b ++ serBits T) log ∧ t.code = s.code := by
  have hvisit := visit_emit T (compressing_outOpen h)
  obtain ⟨stk, hrun⟩ := traverse_trie ignoresStk_emitLeaf (ignoresStk_outBits 1 0) s.stk htrie hsize hvisit
  have hput := compressing_put h (serBits T)
  exact ⟨_, (compressing_step h rfl).trans (andThen_eq_next.mpr ⟨_, hrun, rfl⟩),
    ⟨hput.host, hput.runState, hput.err, rfl, hput.out, hput.inp⟩, rfl⟩

/-- `C_PAYLOAD` (R183). -/
theorem compressing_payload {S : List Byte} (h : s.Compressing i 6 b log) (hr : i.canRewind = true)
    (hdata : i.data = unpackBytes S) (hcode : ∀ b ∈ S, (s.readCode b.toNat).len ≠ 0) :
    ∃ t, step s = .next t ∧ t.Compressing i 7 (b ++ s.codewords S) (log ++ scanLog S.length) ∧ t.code = s.code := by
  obtain ⟨pos, hi⟩ := h.inp
  have hrun := execCPayload_encodes hi hr hdata hcode (compressing_outOpen h)
  obtain ⟨pos', hscan⟩ := scanned_inp (s := s) (j := { i with pos := pos, log := i.log ++ log }) S.length
  rw [List.append_assoc] at hscan
  have hput := compressing_put h (s.codewords S)
  exact ⟨_, (compressing_step h rfl).trans hrun,
    ⟨hput.host, hput.runState, hput.err, rfl, hput.out, pos', hscan⟩, rfl⟩

/-- `C_TERM` (R185). -/
theorem compressing_term (h : s.Compressing i 7 b log) :
    ∃ t, step s = .next t ∧
      t.Compressing i 8 (b ++ field (s.readCode Config.eosSym.toNat).len (s.readCode Config.eosSym.toNat).val) log := by
  have hrun : execCTerm s = .next
      ((s.put (field (s.readCode Config.eosSym.toNat).len (s.readCode Config.eosSym.toNat).val)).setPhase 8) := by
    simp only [execCTerm, outBits_put (compressing_outOpen h), andThen_of_next]
  exact ⟨_, (compressing_step h rfl).trans hrun, compressing_setPhase (compressing_put h _) 8⟩

/-- `C_CLOSE` (R186). -/
theorem compressing_closes (h : s.Compressing i 8 b log) :
    ∃ t, step s = .next t ∧ t.runState = .done ∧ t.err = .none ∧ t.phase = 0 ∧ t.out = some ⟨b, true, false⟩ ∧
      t.inp = s.inp := by
  have hrun : execCClose s = .next { s.setPhase 0 with out := some ⟨b, true, false⟩, runState := .done } := by
    simp [execCClose, endCommand, outClose, h.out, State.setPhase]
  exact ⟨_, (compressing_step h rfl).trans hrun, rfl, h.err, rfl, rfl, rfl⟩

end Phases

/-! ## The run -/

/-- A run goes on after a step that answers. -/
theorem run_succ {s t : State} (k : Nat) (h : step s = .next t) :
    Sys2Proof.core.run (k + 1) s = Sys2Proof.core.run k t := by
  have hstep : Sys2Proof.core.step s = .next t := h
  simp only [Host.Core.run, hstep]

/-- Settles O57: the phases one after another. The counts of the first scan fix the trie, the table holds its codewords,
and every byte of the second scan was counted and so has one. -/
theorem compressOutputAsAFunction : Obligations.CompressOutputAsAFunction := by
  intro s i S hidle hhost hi hr hdata hlen ho
  obtain ⟨s₁, h₁, hc₁⟩ := compressing_starts hidle hhost hi ho
  obtain ⟨s₂, h₂, hc₂, hfreq⟩ := compressing_counts hc₁ hr hdata hlen
  obtain ⟨s₃, T, h₃, hc₃, hhuffman, htrie₃, hT⟩ := compressing_builds hc₂ (hfreq ▸ sentinel_mem_positives S)
  obtain ⟨s₄, h₄, hc₄, htrie₄, hcode₄⟩ := compressing_codes hc₃ htrie₃ hT
  obtain ⟨s₅, h₅, hc₅, htrie₅, hcode₅⟩ := compressing_magic hc₄
  obtain ⟨s₆, h₆, hc₆, hcode₆⟩ := compressing_header hc₅ (htrie₅.trans htrie₄) hT.size_le
  rw [hfreq] at hhuffman hT
  have hcode : s₆.code = codeTable T := by rw [hcode₆, hcode₅, hcode₄]
  obtain ⟨hcoded, hwords⟩ := codewords_codeTable hcode hT fun b => byte_mem_positives
  obtain ⟨s₇, h₇, hc₇, hcode₇⟩ := compressing_payload hc₆ hr hdata hcoded
  obtain ⟨-, hword⟩ := readCode_codeTable (x := Config.eosSym) (hcode₇.trans hcode) hT (sentinel_mem_positives S)
  obtain ⟨s₈, h₈, hc₈⟩ := compressing_term hc₇
  obtain ⟨t, h₉, hrun, herr, hphase, hout, hinp⟩ := compressing_closes hc₈
  obtain ⟨pos, hlog⟩ := hc₈.inp
  refine ⟨t, T, ?_, hrun, herr, hphase, hhuffman, ?_, ?_, i, _, hi, hinp.trans hlog, rfl⟩
  · rw [run_succ 8 h₁, run_succ 7 h₂, run_succ 6 h₃, run_succ 5 h₄, run_succ 4 h₅, run_succ 3 h₆, run_succ 2 h₇,
      run_succ 1 h₈, run_succ 0 h₉]
    rfl
  · rw [hout, hwords, hword]
    simp only [payloadBits, List.nil_append, List.append_assoc]
  · rw [hout]
    rintro o ⟨⟩
    exact unpackBytes_file rfl

end Sys2Proof.Machine
end

section
/-! Rules of the walk of R207 (3) as a recursion and of `D_WALK` (R203 to R205): each round of the loop is one step of
the recursion, from the node under the cursor. -/

namespace Sys2Proof

/-! ## The recursion -/

/-- The walk at the leaf of `sym`, with the bits `x` to go: it is over at the sentinel's, and after any other it notes the
byte and goes on from the root (R203). -/
def walkLeaf (T : Trie) (sym : Symbol) (x : Bits) : List Byte × Option Bits :=
  if sym = Config.eosSym then ([], some x) else (BitVec.ofNat 8 sym.toNat :: (walk T T x).1, (walk T T x).2)

theorem walk_leaf {T C : Trie} {b : Bool} {sym : Symbol} {w : Nat} (x : Bits) (hchild : C.child b = .leaf sym w) :
    walk T C (b :: x) = walkLeaf T sym x := by
  rw [walk, hchild]
  rfl

theorem walk_internal {T C l r : Trie} {b : Bool} {w : Nat} (x : Bits) (hchild : C.child b = .internal w l r) :
    walk T C (b :: x) = walk T (.internal w l r) x := by
  rw [walk, hchild]

theorem unpackBytes_append (S R : List Byte) : unpackBytes (S ++ R) = unpackBytes S ++ unpackBytes R :=
  List.flatMap_append

/-- The bits that `D_WALK` writes for a Symbol are those of the byte that the walk notes. -/
theorem unpackBytes_ofNat (n : Nat) : unpackBytes [BitVec.ofNat 8 n] = field 8 n := by
  rw [unpackBytes_cons, unpackBytes_nil, List.append_nil, byteBits, BitVec.toNat_ofNat, field_mod 8 8 n le_rfl]

namespace Machine

/-! ## The cursor -/

/-- The state with the cursor at node `k` (R25). -/
def State.moveTo (s : State) (k : Nat) : State := { s with cur := k }

/-- The node under the cursor is the root of `C` (R32). -/
def State.StandsAt (s : State) (C : Trie) : Prop := ∃ fuel, treeAt fuel s.nodes s.cur = some C

/-- What a round of the walk does at the node that its bit leads to, the root of `C`: at the sentinel's leaf the walk is
over, at another leaf the byte is written and the cursor goes back to the root (R203). -/
def arrive : Trie → State → Round
  | .leaf sym _, s =>
    if sym = Config.eosSym then .next (false, s.setPhase 12)
    else andThen (outBits 8 sym.toNat s) fun t => .next (true, t.moveTo t.root)
  | .internal _ _ _, s => .next (true, s)

theorem arrive_eos (w : Nat) (s : State) : arrive (.leaf Config.eosSym w) s = .next (false, s.setPhase 12) := by
  rw [arrive, if_pos rfl]

theorem arrive_byte {sym : Symbol} {s : State} (w : Nat) (hsym : sym ≠ Config.eosSym) (hopen : s.OutOpen) :
    arrive (.leaf sym w) s = .next (true, (s.put (field 8 sym.toNat)).moveTo s.root) := by
  rw [arrive, if_neg hsym, outBits_put hopen]
  rfl

/-- A round on the nodes of the store. -/
theorem walkBit_of_nodes {s : State} {nd nd' : Node} {b : Bool} {k : Nat} (hnd : s.nodes[s.cur]? = some nd)
    (hk : (if b then nd.right else nd.left) = k) (hnd' : s.nodes[k]? = some nd') :
    walkBit b s =
      if nd'.leaf then arrive (.leaf nd'.sym nd'.weight) (s.moveTo k) else .next (true, s.moveTo k) := by
  subst hk
  simp only [walkBit, State.readNode, hnd, hnd', arrive]
  rfl

/-- From an internal node a bit leads to a child, and the round does there what is to be done. -/
theorem walkBit_child {s : State} {C : Trie} (hC : s.StandsAt C) (hinternal : C.isInternal = true) (b : Bool) :
    ∃ k, (s.moveTo k).StandsAt (C.child b) ∧ walkBit b s = arrive (C.child b) (s.moveTo k) := by
  obtain ⟨fuel, htree⟩ := hC
  cases C with
  | leaf sym w => cases hinternal
  | internal w l r =>
    obtain ⟨nd, fuel', -, hnd, -, -, hl, hr⟩ := treeAt_internal htree
    have hchild : treeAt fuel' s.nodes (if b then nd.right else nd.left) = some ((Trie.internal w l r).child b) := by
      cases b
      · exact hl
      · exact hr
    refine ⟨if b then nd.right else nd.left, ⟨fuel', hchild⟩, ?_⟩
    generalize (Trie.internal w l r).child b = D at hchild
    cases D with
    | leaf sym v =>
      obtain ⟨nd', hnd', hleaf, rfl, rfl⟩ := treeAt_leaf hchild
      rw [walkBit_of_nodes hnd rfl hnd', if_pos hleaf]
    | internal v l r =>
      obtain ⟨nd', -, -, hnd', hleaf, -⟩ := treeAt_internal hchild
      rw [walkBit_of_nodes hnd rfl hnd', hleaf]
      rfl

/-! ## One round of the loop -/

/-- The state after `n` times `InBits(1)`, each answered with a bit, the bytes `S` written and the cursor at `k`. -/
def State.walked (s : State) (n : Nat) (S : List Byte) (k : Nat) : State :=
  { s with
    inp := s.inp.map fun i => { i with pos := i.pos + n, log := i.log ++ List.replicate n (.bits 1) }
    out := outPlus s (unpackBytes S)
    cur := k }

theorem walked_one (s : State) (S : List Byte) (k : Nat) :
    s.walked 1 S k = ((s.advance 1).put (unpackBytes S)).moveTo k := rfl

theorem walked_zero (s : State) : s.walked 0 [] s.cur = s := by
  simp [State.walked, outPlus]

theorem walked_one_nil (s : State) (k : Nat) : s.walked 1 [] k = (s.advance 1).moveTo k := by
  rw [walked_one, unpackBytes_nil, put_nil]

theorem walked_walked (s : State) (m n : Nat) (S R : List Byte) (j k : Nat) :
    (s.walked m S j).walked n R k = s.walked (m + n) (S ++ R) k := by
  cases hi : s.inp <;> cases ho : s.out <;>
    simp [State.walked, outPlus, hi, ho, unpackBytes_append, Nat.add_assoc]

theorem walked_inRest (s : State) (n : Nat) (S : List Byte) (k : Nat) : (s.walked n S k).inRest = s.inRest.drop n := by
  cases hi : s.inp <;> simp [State.inRest, State.walked, hi]

theorem walked_inp {s : State} {i : InStream} (hi : s.inp = some i) (n : Nat) (S : List Byte) (k : Nat) :
    (s.walked n S k).inp = some { i with pos := i.pos + n, log := i.log ++ List.replicate n (.bits 1) } := by
  simp [State.walked, hi]

theorem outOpen_walked {s : State} (hopen : s.OutOpen) (n : Nat) (S : List Byte) (k : Nat) :
    (s.walked n S k).OutOpen := outOpen_put hopen (unpackBytes S)

section Round

variable {s : State} {i : InStream} {fuel : Nat} {C l r : Trie} {b : Bool} {x : Bits} {sym : Symbol} {w : Nat}

/-- No bit is left (R205). -/
theorem walkLoop_ends (hi : s.inp = some i) (hrest : s.inRest = []) :
    walkLoop (fuel + 1) s = raiseErr .noEos (afterEos s 1) := by
  simp only [walkLoop, inBits_ends (n := 1) hi (by simp [hrest]), andThen_of_next]

/-- A bit is left: what the round does with it. -/
theorem walkLoop_bit (hi : s.inp = some i) (hrest : s.inRest = b :: x) :
    walkLoop (fuel + 1) s =
      andThen (walkBit b (s.advance 1)) fun p => if p.1 then walkLoop fuel p.2 else .next p.2 := by
  simp only [walkLoop, inBits_bit hi hrest, andThen_of_next]
  cases b <;> rfl

/-- A bit that leads to an internal node. -/
theorem walkLoop_internal (hi : s.inp = some i) (hrest : s.inRest = b :: x) (hC : s.StandsAt C)
    (hinternal : C.isInternal = true) (hchild : C.child b = .internal w l r) :
    ∃ k, (s.walked 1 [] k).StandsAt (.internal w l r) ∧ walkLoop (fuel + 1) s = walkLoop fuel (s.walked 1 [] k) := by
  obtain ⟨k, hstands, hrun⟩ := walkBit_child (s := s.advance 1) hC hinternal b
  rw [hchild] at hstands hrun
  exact ⟨k, hstands, by rw [walkLoop_bit hi hrest, hrun, walked_one_nil]; rfl⟩

/-- A bit that leads to the sentinel's leaf ends the phase (R203). -/
theorem walkLoop_eos (hi : s.inp = some i) (hrest : s.inRest = b :: x) (hC : s.StandsAt C)
    (hinternal : C.isInternal = true) (hchild : C.child b = .leaf Config.eosSym w) :
    ∃ k, walkLoop (fuel + 1) s = .next ((s.walked 1 [] k).setPhase 12) := by
  obtain ⟨k, -, hrun⟩ := walkBit_child (s := s.advance 1) hC hinternal b
  rw [hchild, arrive_eos] at hrun
  exact ⟨k, by rw [walkLoop_bit hi hrest, hrun, walked_one_nil]; rfl⟩

/-- A bit that leads to a byte's leaf: the byte is written, and the cursor goes back to the root (R203). -/
theorem walkLoop_byte (hi : s.inp = some i) (hrest : s.inRest = b :: x) (hC : s.StandsAt C)
    (hinternal : C.isInternal = true) (hchild : C.child b = .leaf sym w) (hsym : sym ≠ Config.eosSym)
    (hopen : s.OutOpen) :
    walkLoop (fuel + 1) s = walkLoop fuel (s.walked 1 [BitVec.ofNat 8 sym.toNat] s.root) := by
  obtain ⟨k, -, hrun⟩ := walkBit_child (s := s.advance 1) hC hinternal b
  rw [hchild, arrive_byte (s := (s.advance 1).moveTo k) w hsym hopen] at hrun
  rw [walkLoop_bit hi hrest, hrun, walked_one, unpackBytes_ofNat]
  rfl

end Round

/-! ## The loop is the recursion -/

/-- The outcome of the loop of R203 against what the walk gives: up to the terminator the bits have been read and the
bytes written, and the phase is over; where the bits end first the loop raises after the bytes so far (R205). -/
inductive State.WalkEnds (s : State) : List Byte × Option Bits → Result → Prop
  | terminator {n k : Nat} {S : List Byte} : n ≤ s.inRest.length →
      s.WalkEnds (S, some (s.inRest.drop n)) (.next ((s.walked n S k).setPhase 12))
  | cut {n k : Nat} {S : List Byte} : s.WalkEnds (S, none) (raiseErr .noEos (afterEos (s.walked n S k) 1))

/-- What a walk ends in behind its first bits and bytes, it ends in. -/
theorem walkEnds_after {s : State} {m k : Nat} {S : List Byte} {p : List Byte × Option Bits} {o : Result}
    (hm : m ≤ s.inRest.length) (h : (s.walked m S k).WalkEnds p o) : s.WalkEnds (S ++ p.1, p.2) o := by
  cases h with
  | terminator hn =>
    rw [walked_inRest, List.length_drop] at hn
    rw [walked_walked, walked_inRest, List.drop_drop]
    exact .terminator (by omega)
  | cut =>
    rw [walked_walked]
    exact .cut

/-- The loop over the trie `T` in the store, from the node of `C`, with a round to go for each bit and one more. -/
theorem walkLoop_walk {T C : Trie} {x : Bits} {fuel : Nat} {s : State} {i : InStream} (hi : s.inp = some i)
    (hrest : s.inRest = x) (hfuel : x.length < fuel) (hT : (s.moveTo s.root).StandsAt T)
    (hroot : T.isInternal = true) (hC : s.StandsAt C) (hinternal : C.isInternal = true) (hopen : s.OutOpen) :
    s.WalkEnds (walk T C x) (walkLoop fuel s) := by
  obtain ⟨fuel, rfl⟩ := Nat.exists_eq_succ_of_ne_zero (Nat.ne_zero_of_lt hfuel)
  induction x generalizing s i fuel C with
  | nil =>
    have hcut : s.WalkEnds ([], none) (raiseErr .noEos (afterEos (s.walked 0 [] s.cur) 1)) := .cut
    rwa [walked_zero, ← walkLoop_ends hi hrest] at hcut
  | cons b x ih =>
    rw [List.length_cons, Nat.succ_lt_succ_iff] at hfuel
    obtain ⟨fuel, rfl⟩ := Nat.exists_eq_succ_of_ne_zero (Nat.ne_zero_of_lt hfuel)
    have hone : 1 ≤ s.inRest.length := by rw [hrest]; exact Nat.succ_pos _
    have hrest' : ∀ S k, (s.walked 1 S k).inRest = x := fun S k => by rw [walked_inRest, hrest]; rfl
    have hgo : ∀ S k D, (s.walked 1 S k).StandsAt D → D.isInternal = true →
        (s.walked 1 S k).WalkEnds (walk T D x) (walkLoop (fuel + 1) (s.walked 1 S k)) := fun S k D hD hinternal =>
      ih (s := s.walked 1 S k) (advance_inp hi 1) (hrest' S k) hT hD hinternal (outOpen_walked hopen 1 S k) fuel hfuel
    cases hchild : C.child b with
    | internal w l r =>
      obtain ⟨k, hstands, hrun⟩ := walkLoop_internal (fuel := fuel + 1) hi hrest hC hinternal hchild
      rw [walk_internal x hchild, hrun]
      exact walkEnds_after hone (hgo [] k _ hstands rfl)
    | leaf sym w =>
      rw [walk_leaf x hchild, walkLeaf]
      by_cases hsym : sym = Config.eosSym
      · subst hsym
        obtain ⟨k, hrun⟩ := walkLoop_eos (fuel := fuel + 1) hi hrest hC hinternal hchild
        rw [hrun, if_pos rfl, ← hrest' [] k, walked_inRest]
        exact .terminator hone
      · rw [if_neg hsym, walkLoop_byte hi hrest hC hinternal hchild hsym hopen]
        exact walkEnds_after hone (hgo [_] _ T hT hroot)

/-! ## `D_WALK` -/

theorem execDWalk_eq (s : State) : execDWalk s = walkLoop s.inputFuel (s.moveTo s.root) := rfl

/-- `D_WALK` with a trie in the store ends as the walk does. -/
theorem execDWalk_walk {s : State} {i : InStream} {T : Trie} (hi : s.inp = some i) (htrie : s.trie = some T)
    (hroot : T.isInternal = true) (hopen : s.OutOpen) :
    (s.moveTo s.root).WalkEnds (walk T T s.inRest) (execDWalk s) := by
  have hstands : (s.moveTo s.root).StandsAt T := ⟨257, htrie⟩
  exact walkLoop_walk hi rfl (inRest_length_lt_inputFuel hi) hstands hroot hstands hroot hopen

/-- Settles O39: where the bits end before a terminator, the walk does, and the loop raises with the bytes of the walk
written. -/
theorem truncatedPayloadIsReported : Obligations.TruncatedPayloadIsReported := by
  intro s i T bytes hi htrie hroot hopen hwalk
  have hends := execDWalk_walk hi htrie hroot hopen
  rw [hwalk] at hends
  generalize hrun : execDWalk s = o at hends
  cases hends with
  | @cut n k =>
    have hopen' : (afterEos (s.walked n bytes k) 1).OutOpen := outOpen_walked hopen n bytes k
    have hout : outClosed (afterEos (s.walked n bytes k) 1) [] = outClosed s (unpackBytes bytes) :=
      (outClosed_put s _ []).trans (by rw [List.append_nil])
    exact ⟨_, hrun.trans (raiseErr_of_open hopen'), rfl, rfl, rfl, hout, rfl⟩

end Machine

end Sys2Proof
end

section
/-! The run of DECOMPRESS (R200 to R208): each of its four phases takes a running decompression to the next phase, or
ends it with the output closed. -/

namespace Sys2Proof.Machine

/-! ## `D_MAGIC` -/

/-- `D_MAGIC` with fewer than 32 bits left raises (R202). -/
theorem execDMagic_short {s : State} {i : InStream} (hi : s.inp = some i) (hshort : s.inRest.length < 32) :
    execDMagic s = raiseErr .badMagic (afterEos s 32) := by
  simp only [execDMagic, inBits_ends hi hshort, andThen_of_next]

/-- `D_MAGIC` with 32 bits left reads them as a number and goes on if it is `MAGIC` (R96, R202). -/
theorem execDMagic_reads {s : State} {i : InStream} (hi : s.inp = some i) (hlen : 32 ≤ s.inRest.length) :
    execDMagic s =
      if value (s.inRest.take 32) = Config.magic.toNat then .next ((s.advance 32).setPhase 10)
      else raiseErr .badMagic (s.advance 32) := by
  have hlt := value_lt (s.inRest.take 32)
  rw [List.length_take_of_le hlen] at hlt
  have hmagic : BitVec.ofNat 32 (value (s.inRest.take 32)) = Config.magic ↔
      value (s.inRest.take 32) = Config.magic.toNat := by
    rw [BitVec.toNat_eq, BitVec.toNat_ofNat, Nat.mod_eq_of_lt hlt]
  simp only [execDMagic, inBits_answers hi hlen, andThen_of_next, execMagic, hmagic]

/-! ## A running decompression -/

/-- DECOMPRESS is at the start of phase `p` and has written the bits `b`. -/
structure State.Decompressing (s : State) (p : BitVec 4) (b : Bits) : Prop where
  host : s.host = []
  runState : s.runState = .busy
  err : s.err = .none
  phase : s.phase = p
  out : s.out = some ⟨b, false, false⟩
  inp : s.InAttached

/-- A command has ended in state `r`, with error `e` and phase `p`; it has written the bits `b` and closed the output. -/
structure State.Ended (s : State) (r : RunState) (e : Err) (p : BitVec 4) (b : Bits) : Prop where
  host : s.host = []
  runState : s.runState = r
  err : s.err = e
  phase : s.phase = p
  out : s.out = some ⟨b, true, false⟩

/-- After its end a command runs no more (R244). -/
theorem run_ended {s : State} {r : RunState} {e : Err} {p : BitVec 4} {b : Bits} (h : s.Ended r e p b)
    (hr : r ≠ .busy) (k : Nat) : Sys2Proof.core.run k s = .next s := by
  have hidle : step s = .next s := by
    simp only [step, fetch, h.host, fetchCore, h.runState, if_neg hr]
  induction k with
  | zero => rfl
  | succ k ih => rw [run_succ k hidle, ih]

section Phases

variable {s : State} {p : BitVec 4} {b : Bits}

theorem decompressing_outOpen (h : s.Decompressing p b) : s.OutOpen := ⟨_, h.out, rfl, rfl⟩

/-- The step of a running decompression is its phase (R24). -/
theorem decompressing_step (h : s.Decompressing p b) {instr : Instr} (hdecode : decodePhase p = .ok instr) :
    step s = exec instr s := by
  rw [← h.phase] at hdecode
  simp only [step, fetch, h.host, fetchCore, h.runState, if_true, hdecode]

/-- An error ends a running decompression, and no bit is written (R234). -/
theorem ended_of_raise (h : s.Decompressing p b) (e : Err) :
    ∃ t, raiseErr e s = .next t ∧ t.Ended .error e p b :=
  ⟨_, raiseErr_of_open (decompressing_outOpen h), h.host, rfl, rfl, h.phase, by simp [outClosed, h.out]⟩

theorem decompressing_advance (h : s.Decompressing p b) (n : Nat) : (s.advance n).Decompressing p b := by
  obtain ⟨i, hi⟩ := h.inp
  exact ⟨h.host, h.runState, h.err, h.phase, h.out, _, advance_inp hi n⟩

theorem decompressing_afterEos (h : s.Decompressing p b) (n : Nat) : (afterEos s n).Decompressing p b := by
  obtain ⟨i, hi⟩ := h.inp
  exact ⟨h.host, h.runState, h.err, h.phase, h.out, by simp [afterEos, hi]⟩

/-! ## The phases -/

/-- The write of the command starts a decompression, with no transaction on IN (R200). -/
theorem decompressing_starts {i : InStream} (hidle : s.runState ≠ .busy) (hhost : s.host = [.write 0x0 0x02])
    (hi : s.inp = some i) (ho : s.out = some ⟨[], false, false⟩) :
    ∃ t, step s = .next t ∧ t.Decompressing 9 [] ∧ t.inRest = s.inRest := by
  have hrun : step s = .next (State.accept { s with host := [] } 0x02 9) := by
    simp [step, fetch, hhost, fetchWrite, hostReg, decodeCmd, exec, execDecompress, startCommand, hidle]
  exact ⟨_, hrun, ⟨rfl, rfl, rfl, rfl, ho, i, hi⟩, rfl⟩

/-- `D_MAGIC` on the magic field (R202). -/
theorem decompressing_magic (h : s.Decompressing 9 b) (hlen : 32 ≤ s.inRest.length)
    (hmagic : value (s.inRest.take 32) = Config.magic.toNat) :
    ∃ t, step s = .next t ∧ t.Decompressing 10 b ∧ t.inRest = s.inRest.drop 32 := by
  obtain ⟨i, hi⟩ := h.inp
  have hrun := execDMagic_reads hi hlen
  rw [if_pos hmagic] at hrun
  have hread := decompressing_advance h 32
  exact ⟨_, (decompressing_step h rfl).trans hrun,
    ⟨hread.host, hread.runState, hread.err, rfl, hread.out, hread.inp⟩, advance_inRest s 32⟩

/-- `D_MAGIC` on anything else (R202, R222). -/
theorem decompressing_badMagic (h : s.Decompressing 9 b)
    (hbad : s.inRest.length < 32 ∨ value (s.inRest.take 32) ≠ Config.magic.toNat) :
    ∃ t, step s = .next t ∧ t.Ended .error .badMagic 9 b := by
  obtain ⟨i, hi⟩ := h.inp
  obtain ⟨t, hrun, hend⟩ : ∃ t, execDMagic s = .next t ∧ t.Ended .error .badMagic 9 b := by
    rcases Nat.lt_or_ge s.inRest.length 32 with hshort | hlen
    · rw [execDMagic_short hi hshort]
      exact ended_of_raise (decompressing_afterEos h 32) .badMagic
    · rw [execDMagic_reads hi hlen, if_neg (hbad.resolve_left hlen.not_gt)]
      exact ended_of_raise (decompressing_advance h 32) .badMagic
  exact ⟨t, (decompressing_step h rfl).trans hrun, hend⟩

/-- `D_HEADER` where `ReadTree` gives a trie (R164). -/
theorem decompressing_header {T : Trie} {y : Bits} {n : Nat} (h : s.Decompressing 10 b)
    (hread : readHeader s.inRest = .ok (T, y, n)) :
    ∃ t, step s = .next t ∧ t.Decompressing 11 b ∧ t.trie = some T ∧ t.inRest = y := by
  obtain ⟨i, hi⟩ := h.inp
  have href := headerPhaseRefinesReadTree s i hi (decompressing_outOpen h)
  rw [hread] at href
  obtain ⟨t, hrun, htrie, -, -, -, hphase, hrest, -, ⟨-, j, -, hj, -⟩, hframe⟩ := href
  exact ⟨t, (decompressing_step h rfl).trans hrun,
    ⟨(congrArg State.host hframe :).trans h.host, (congrArg State.runState hframe :).trans h.runState,
      (congrArg State.err hframe :).trans h.err, hphase, (congrArg State.out hframe :).trans h.out, j, hj⟩,
    htrie, hrest⟩

/-- `D_HEADER` where `ReadTree` fails (R172). -/
theorem decompressing_badHeader {e : Err} (h : s.Decompressing 10 b) (hread : readHeader s.inRest = .error e) :
    ∃ t, step s = .next t ∧ t.Ended .error e 10 b := by
  obtain ⟨i, hi⟩ := h.inp
  have href := headerPhaseRefinesReadTree s i hi (decompressing_outOpen h)
  rw [hread] at href
  obtain ⟨t, hrun, herr, hstate, hphase, hout, hframe⟩ := href
  exact ⟨t, (decompressing_step h rfl).trans hrun, (congrArg State.host hframe :).trans h.host, hstate, herr,
    hphase.trans h.phase, by simp [hout, outClosed, h.out]⟩

/-- `D_WALK` on a payload with a terminator (R203). -/
theorem decompressing_walks {T : Trie} {S : List Byte} {rest : Bits} (h : s.Decompressing 11 b)
    (htrie : s.trie = some T) (hroot : T.isInternal = true) (hwalk : walk T T s.inRest = (S, some rest)) :
    ∃ t, step s = .next t ∧ t.Decompressing 12 (b ++ unpackBytes S) ∧ t.inRest = rest := by
  obtain ⟨i, hi⟩ := h.inp
  have hends := execDWalk_walk hi htrie hroot (decompressing_outOpen h)
  rw [hwalk] at hends
  generalize hrun : execDWalk s = o at hends
  cases hends with
  | @terminator n k S hn =>
    exact ⟨_, (decompressing_step h rfl).trans hrun,
      ⟨h.host, h.runState, h.err, rfl, by simp [State.walked, outPlus, State.moveTo, h.out],
        _, walked_inp (s := s.moveTo s.root) hi n S k⟩, walked_inRest s n S k⟩

/-- `D_WALK` on a payload with none (R205). -/
theorem decompressing_truncated {T : Trie} {S : List Byte} (h : s.Decompressing 11 b) (htrie : s.trie = some T)
    (hroot : T.isInternal = true) (hwalk : walk T T s.inRest = (S, none)) :
    ∃ t, step s = .next t ∧ t.Ended .error .noEos 11 (b ++ unpackBytes S) := by
  obtain ⟨i, hi⟩ := h.inp
  obtain ⟨t, hrun, herr, hstate, hphase, hout, hframe⟩ :=
    truncatedPayloadIsReported s i T S hi htrie hroot (decompressing_outOpen h) hwalk
  exact ⟨t, (decompressing_step h rfl).trans hrun, (congrArg State.host hframe :).trans h.host, hstate, herr,
    hphase.trans h.phase, by simp [hout, outClosed, h.out]⟩

/-- `D_CLOSE` (R206). -/
theorem decompressing_closes (h : s.Decompressing 12 b) :
    ∃ t, step s = .next t ∧ t.Ended .done .none 0 b ∧ t.inRest = s.inRest := by
  have hrun : execDClose s = .next { s.setPhase 0 with out := some ⟨b, true, false⟩, runState := .done } := by
    simp [execDClose, endCommand, outClose, h.out, State.setPhase]
  exact ⟨_, (decompressing_step h rfl).trans hrun, ⟨h.host, rfl, h.err, rfl, rfl⟩, rfl⟩

end Phases

/-! ## The run -/

/-- Settles O59: the phases one after another, up to the end of the command, where the machine stays. -/
theorem decompressResultAsAFunction : Obligations.DecompressResultAsAFunction := by
  intro s i hidle hhost hi ho
  obtain ⟨s₁, h₁, hd₁, hrest₁⟩ := decompressing_starts hidle hhost hi ho
  rw [← hrest₁]
  by_cases hbad : s₁.inRest.length < 32 ∨ value (s₁.inRest.take 32) ≠ Config.magic.toNat
  · obtain ⟨t, h₂, hend⟩ := decompressing_badMagic hd₁ hbad
    refine ⟨t, ?_, ?_⟩
    · rw [run_succ 4 h₁, run_succ 3 h₂, run_ended hend nofun]
    · rw [if_pos hbad]
      exact ⟨hend.runState, hend.err, hend.phase, hend.out⟩
  obtain ⟨hlen, hmagic⟩ := not_or.mp hbad
  obtain ⟨s₂, h₂, hd₂, hrest₂⟩ := decompressing_magic hd₁ (Nat.le_of_not_lt hlen) (not_not.mp hmagic)
  simp only [if_neg hbad]
  rw [← hrest₂]
  cases hread : readHeader s₂.inRest with
  | error e =>
    obtain ⟨t, h₃, hend⟩ := decompressing_badHeader hd₂ hread
    refine ⟨t, ?_, hend.runState, hend.err, hend.phase, hend.out⟩
    rw [run_succ 4 h₁, run_succ 3 h₂, run_succ 2 h₃, run_ended hend nofun]
  | ok r =>
    obtain ⟨T, y, n⟩ := r
    obtain ⟨-, -, -, -, -, hroot⟩ := readHeader_ok hread
    obtain ⟨s₃, h₃, hd₃, htrie, rfl⟩ := decompressing_header hd₂ hread
    rcases hwalk : walk T T s₃.inRest with ⟨S, _ | rest⟩
    · obtain ⟨t, h₄, hend⟩ := decompressing_truncated hd₃ htrie hroot hwalk
      simp only [hwalk]
      refine ⟨t, ?_, hend.runState, hend.err, hend.phase, hend.out⟩
      rw [run_succ 4 h₁, run_succ 3 h₂, run_succ 2 h₃, run_succ 1 h₄, run_ended hend nofun]
    · obtain ⟨s₄, h₄, hd₄, rfl⟩ := decompressing_walks hd₃ htrie hroot hwalk
      obtain ⟨t, h₅, hend, hrest⟩ := decompressing_closes hd₄
      simp only [hwalk]
      refine ⟨t, ?_, hend.runState, hend.err, hend.phase, hend.out, hrest⟩
      rw [run_succ 4 h₁, run_succ 3 h₂, run_succ 2 h₃, run_succ 1 h₄, run_succ 0 h₅]
      rfl

end Sys2Proof.Machine
end

section
/-! The round trip (R211): `ReadTree` inverts `SerBits`, the walk inverts the payload, packing inverts unpacking. -/

namespace Sys2Proof

/-! ## The trie that the decoder holds -/

/-- A trie keeps its paths when it loses its weights (R170). -/
theorem paths_strip (T : Trie) : T.strip.paths = T.paths := by
  induction T with
  | leaf sym w => rfl
  | internal w l r ihl ihr => simp only [Trie.strip, Trie.paths, ihl, ihr]

theorem isInternal_strip (T : Trie) : T.strip.isInternal = T.isInternal := by
  cases T <;> rfl

/-! ## The walk inverts the payload -/

/-- The walk along a path comes to the leaf at its end (R150, R203). -/
theorem walk_path {T C : Trie} {sym : Symbol} {p : Bits} (x : Bits) (hinternal : C.isInternal = true)
    (h : (sym, p) ∈ C.paths) : walk T C (p ++ x) = walkLeaf T sym x := by
  induction p generalizing C with
  | nil => exact absurd rfl (path_ne_nil hinternal h)
  | cons b p ih =>
    have hchild : (sym, p) ∈ (C.child b).paths := by
      cases C with
      | leaf _ _ => cases hinternal
      | internal _ l r =>
        obtain ⟨q, hq, hbit⟩ | ⟨q, hq, hbit⟩ := mem_paths_internal.mp h <;> cases hbit <;> exact hq
    rw [List.cons_append]
    cases hC : C.child b with
    | leaf y w =>
      rw [hC, Trie.paths, List.mem_singleton, Prod.mk.injEq] at hchild
      obtain ⟨rfl, rfl⟩ := hchild
      exact walk_leaf x hC
    | internal w l r =>
      rw [hC] at hchild
      rw [walk_internal _ hC, ih rfl hchild]

theorem walkLeaf_eos (T : Trie) (x : Bits) : walkLeaf T Config.eosSym x = ([], some x) := if_pos rfl

/-- No byte is the sentinel (R9). -/
theorem walkLeaf_byte (T : Trie) (b : Byte) (x : Bits) :
    walkLeaf T (b.zeroExtend 9) x = (b :: (walk T T x).1, (walk T T x).2) := by
  have hnat := Machine.toNat_byteSymbol b
  have hlt : b.toNat < 256 := b.isLt
  have hne : b.zeroExtend 9 ≠ Config.eosSym := fun h => by
    rw [h] at hnat
    exact hlt.ne hnat.symm
  rw [walkLeaf, if_neg hne, hnat, BitVec.ofNat_toNat, BitVec.setWidth_eq]

theorem payloadBits_cons (T : Trie) (b : Byte) (S : List Byte) :
    payloadBits T (b :: S) = T.code (b.zeroExtend 9) ++ payloadBits T S := by
  simp [payloadBits]

/-- The decoder's walk on a payload gives the bytes back, and the bits after the terminator (R203, R207). -/
theorem walk_payload {T : Trie} {L : List Symbol} {S : List Byte} (hT : T.Encodes L) (hend : Config.eosSym ∈ L)
    (hS : ∀ b ∈ S, b.zeroExtend 9 ∈ L) (x : Bits) :
    walk T.strip T.strip (payloadBits T S ++ x) = (S, some x) := by
  have hcode : ∀ sym ∈ L, ∀ y, walk T.strip T.strip (T.code sym ++ y) = walkLeaf T.strip sym y := by
    intro sym hsym y
    obtain ⟨p, hp⟩ := exists_path_of_mem_symbols (hT.covers sym hsym)
    rw [code_of_mem_paths hT.nodup hp]
    exact walk_path y ((isInternal_strip T).trans hT.internal) (paths_strip T ▸ hp)
  induction S with
  | nil => exact (hcode _ hend x).trans (walkLeaf_eos _ x)
  | cons b S ih =>
    obtain ⟨hb, hS⟩ := List.forall_mem_cons.mp hS
    rw [payloadBits_cons, List.append_assoc, hcode _ hb, walkLeaf_byte, ih hS]

/-! ## The file -/

/-- Packing inverts unpacking (R69). -/
theorem packBytes_unpackBytes (S : List Byte) : packBytes (unpackBytes S) = S := by
  induction S with
  | nil => rfl
  | cons b S ih =>
    rw [unpackBytes_cons, packBytes_append (byteBits_length b), value_byteBits, BitVec.ofNat_toNat, BitVec.setWidth_eq,
      ih]

namespace Machine

/-- Whole bytes need no padding (R68). -/
theorem file_of_bytes (S : List Byte) : OutStream.file ⟨unpackBytes S, true, false⟩ = S := by
  have hpad : padFor (unpackBytes S) = [] := by simp [padFor, unpackBytes_length]
  simp only [OutStream.file, hpad, if_true, List.append_nil, packBytes_unpackBytes]

/-! ## `ReadTree` inverts `SerBits` -/

/-- `ReadTree` on a tree header gives its trie with every weight 0, and the bits after it (R170). -/
theorem readTree_serBits {T : Trie} {fuel n : Nat} (x : Bits) (hsym : ∀ y ∈ T.symbols, y.toNat ≤ 256)
    (hfuel : T.depth < fuel) (hcap : n + T.size ≤ 513) :
    readTree fuel (serBits T ++ x) n = .ok (T.strip, x, n + T.size) := by
  obtain ⟨fuel, rfl⟩ := Nat.exists_eq_succ_of_ne_zero (Nat.ne_zero_of_lt hfuel)
  induction T generalizing fuel n x with
  | leaf sym w =>
    have hroom : ¬ Config.nodeCap ≤ n := Nat.not_le.mpr (show n < 513 from hcap)
    have hle : sym.toNat ≤ 256 := hsym sym (List.mem_singleton_self sym)
    rw [serBits_leaf, List.cons_append, readTree, if_neg hroom, if_pos rfl, takeField_field x sym.isLt]
    simp only [if_pos hle, BitVec.ofNat_toNat, BitVec.setWidth_eq]
    rfl
  | internal w l r ihl ihr =>
    obtain ⟨hsyml, hsymr⟩ := forall_symbols_internal.mp hsym
    rw [Trie.depth] at hfuel
    rw [size_internal] at hcap
    have hroom : ¬ Config.nodeCap ≤ n := Nat.not_le.mpr (show n < 513 by omega)
    obtain ⟨fuel, rfl⟩ : ∃ f, fuel = f + 1 := Nat.exists_eq_succ_of_ne_zero (by omega)
    have hl := ihl (n := n + 1) (serBits r ++ x) hsyml (by omega) fuel (by omega)
    have hr := ihr (n := n + 1 + l.size) x hsymr (by omega) fuel (by omega)
    have hsize : n + (Trie.internal w l r).size = n + 1 + l.size + r.size := by
      rw [size_internal]
      omega
    rw [serBits_internal, List.cons_append, List.append_assoc, readTree, if_neg hroom, hsize]
    simp only [hl, hr, Trie.strip, Bool.false_eq_true, if_false]

/-- The header of a trie with an internal root is accepted (R168, R170). -/
theorem readHeader_serBits {T : Trie} (x : Bits) (hsym : ∀ y ∈ T.symbols, y.toNat ≤ 256) (hroot : T.isInternal = true)
    (hsize : T.size ≤ 513) : readHeader (serBits T ++ x) = .ok (T.strip, x, T.size) := by
  have hdepth := two_mul_depth_lt_size T
  have hbits := size_le_serBits_length T
  have hread := readTree_serBits (fuel := (serBits T ++ x).length + 1) (n := 0) x hsym
    (by rw [List.length_append]; omega) (by omega)
  rw [Nat.zero_add] at hread
  simp only [readHeader, hread, isInternal_strip, hroot, if_true]

/-! ## The law -/

/-- The trie of counts that hold the sentinel's (R137, R139). -/
theorem encodes_of_huffman {freq : Vector Nat 257} {T : Trie} (hend : (256 : Symbol) ∈ (positives freq).map Prod.fst)
    (h : huffman (positives freq) = some T) : T.Encodes ((positives freq).map Prod.fst) := by
  match hL : positives freq with
  | [] => simp [hL] at hend
  | [(x, w)] =>
    rw [hL, List.map_singleton, List.mem_singleton] at hend
    subst hend
    rw [hL] at h
    cases h
    exact encodes_sole w
  | c :: d :: L =>
    have hlen : 2 ≤ (positives freq).length := by rw [hL]; simp
    rw [← hL]
    exact encodes_of_perm hlen (huffman_leafList hlen h)

/-- DECOMPRESS of a file in the format gives its bytes, whatever bits come after the terminator (R207, R211). -/
theorem decompress_file {s : State} {i : InStream} {T : Trie} {L : List Symbol} {S : List Byte} {x : Bits}
    (hidle : s.runState ≠ .busy) (hhost : s.host = [.write 0x0 0x02]) (hi : s.inp = some i)
    (ho : s.out = some ⟨[], false, false⟩)
    (hrest : s.inRest = field 32 Config.magic.toNat ++ serBits T ++ payloadBits T S ++ x) (hT : T.Encodes L)
    (hend : Config.eosSym ∈ L) (hS : ∀ b ∈ S, b.zeroExtend 9 ∈ L) :
    ∃ u p, Sys2Proof.core.run 5 s = .next u ∧ u.runState = .done ∧ u.err = .none ∧ u.out = some p ∧ p.file = S := by
  obtain ⟨u, hrun, hresult⟩ := decompressResultAsAFunction s i hidle hhost hi ho
  rw [List.append_assoc, List.append_assoc] at hrest
  have hmagic : takeField 32 s.inRest = some (Config.magic.toNat, serBits T ++ (payloadBits T S ++ x)) := by
    rw [hrest]
    exact takeField_field _ Config.magic.isLt
  obtain ⟨hlen, hvalue, hdrop⟩ := takeField_eq_some.mp hmagic
  have hgood : ¬ (s.inRest.length < 32 ∨ value (s.inRest.take 32) ≠ Config.magic.toNat) :=
    not_or.mpr ⟨Nat.not_lt.mpr hlen, not_not.mpr hvalue⟩
  rw [if_neg hgood, hdrop, readHeader_serBits _ hT.symbol_le hT.internal hT.size_le] at hresult
  simp only [walk_payload hT hend hS x] at hresult
  obtain ⟨hdone, herr, -, hout, -⟩ := hresult
  exact ⟨u, _, hrun, hdone, herr, hout, file_of_bytes S⟩

/-- Settles O60: the file of COMPRESS is in the format, under the trie of the input's counts (O57), and DECOMPRESS gives
back the bytes of a file in the format under any trie. -/
theorem roundTripLaw : Obligations.RoundTripLaw := by
  constructor
  · intro s i S hidle hhost hi hr hdata hlen ho
    obtain ⟨t, T, hrun, hdone, -, -, hhuffman, hout, hfile, -⟩ :=
      compressOutputAsAFunction s i S hidle hhost hi hr hdata hlen ho
    have hT := encodes_of_huffman (sentinel_mem_positives S) hhuffman
    refine ⟨t, _, hrun, hdone, hout, fun d rewinds hd => ?_⟩
    obtain ⟨x, rfl⟩ := hd.elim (fun h => ⟨_, h.trans (hfile _ hout)⟩) id
    have hidle' : t.runState ≠ .busy := by
      rw [hdone]
      nofun
    exact decompress_file (s := { t.attach _ 0 rewinds with host := [.write 0x0 0x02] }) hidle' rfl rfl rfl rfl hT
      (sentinel_mem_positives S) fun b => byte_mem_positives
  · intro s i T S x hidle hhost hi ho hrest hroot hsize hdistinct hsym hend hS
    exact decompress_file hidle hhost hi ho hrest ⟨hroot, hsize, hdistinct, hsym, fun y hy => hy⟩ hend hS

end Machine

end Sys2Proof
end

section
/-! The errors of 60_exceptions.md: `raise E` (R234), an illegal command (R231), an input too long (R226) and a magic field
that is not `MAGIC` (R222). -/

namespace Sys2Proof.Machine

/-! ## `raise` and the illegal command -/

/-- Settles O15: a `raise` closes the output and appends no bit to it. -/
theorem raiseEndsTheCommand : Obligations.RaiseEndsTheCommand := by
  intro e s o ho hc ha
  have hout : outClosed s [] = some { o with closed := true } := by simp [outClosed, ho]
  rw [raiseErr_of_open ⟨o, ho, hc, ha⟩, hout]

/-- Only 0x01 and 0x02 are commands (R92 to R94). -/
theorem decodeCmd_illegal {c : Byte} (h₁ : c ≠ 0x01) (h₂ : c ≠ 0x02) : decodeCmd c = .error .illegalCommand := by
  unfold decodeCmd
  split
  · next h => exact absurd (BitVec.eq_of_toNat_eq h) h₁
  · next h => exact absurd (BitVec.eq_of_toNat_eq h) h₂
  · rfl

/-- The write of an illegal command while no command runs (R231). -/
theorem fetchWrite_illegal {s : State} {c : Byte} (hidle : s.runState ≠ .busy) (h₁ : c ≠ 0x01) (h₂ : c ≠ 0x02) :
    fetchWrite 0x0 c s = .settled (.next (s.badCommand c)) := by
  simp only [fetchWrite, hostReg, decodeCmd_illegal h₁ h₂, if_neg hidle]

/-- Settles O12: such a write is settled by the four register writes, with no instruction run. -/
theorem illegalCommandIsReported : Obligations.IllegalCommandIsReported := by
  intro s h c hidle h₁ h₂ hhost
  have hwrite := fetchWrite_illegal (s := { s with host := h }) hidle h₁ h₂
  simp only [step, fetch, hhost, hwrite]
  rfl

/-! ## An input longer than `MAX_IN` -/

/-- A byte when `N_IN` is at `MAX_IN` already: it is read and not counted, and the loop raises (R123). -/
theorem countLoop_full {maxIn fuel : Nat} {s : State} {i : InStream} {b : Byte} {x : Bits} (hi : s.inp = some i)
    (hrest : s.inRest = byteBits b ++ x) (hfull : s.nIn = maxIn) :
    countLoop maxIn (fuel + 1) s = raiseErr .countOverflow (s.advance 8) := by
  have hfull' : (s.advance 8).nIn = maxIn := hfull
  simp only [countLoop, inBits_byte hi hrest, andThen_of_next, if_pos hfull']

/-- `C_FREQ` over the first bytes of the input, at most `MAX_IN` of them: what is left of the loop. -/
theorem execCFreq_bytes {s : State} {i : InStream} {S R : List Byte} (hi : s.inp = some i) (hr : i.canRewind = true)
    (hdata : i.data = unpackBytes (S ++ R)) (hlen : S.length ≤ Config.maxIn) :
    ((s.startCount i).countBytes S).inRest = unpackBytes R ∧
      ∃ fuel, execCFreq s = countLoop Config.maxIn (fuel + 1) ((s.startCount i).countBytes S) := by
  have hrest : (s.startCount i).inRest = unpackBytes S ++ unpackBytes R := hdata.trans (unpackBytes_append S R)
  have hfuel : i.data.length + 1 = 7 * S.length + 8 * R.length + 1 + S.length := by
    rw [hdata, unpackBytes_length, List.length_append]
    omega
  have hroom : (s.startCount i).nIn + S.length ≤ Config.maxIn := (Nat.zero_add S.length).trans_le hlen
  refine ⟨?_, 7 * S.length + 8 * R.length, ?_⟩
  · rw [countBytes_inRest, hrest, List.drop_left' (unpackBytes_length S)]
  · rw [execCFreq_startCount hi hr, hfuel]
    exact countLoop_bytes rfl hrest hroom

/-- `C_FREQ` with a byte after the first `MAX_IN` bytes (R123, R226). -/
theorem execCFreq_overflows {s : State} {i : InStream} {S R : List Byte} {b : Byte} (hi : s.inp = some i)
    (hr : i.canRewind = true) (hdata : i.data = unpackBytes (S ++ b :: R)) (hlen : S.length = Config.maxIn) :
    execCFreq s = raiseErr .countOverflow (((s.startCount i).countBytes S).advance 8) ∧
      (((s.startCount i).countBytes S).advance 8).inRest = unpackBytes R := by
  obtain ⟨hrest, fuel, hrun⟩ := execCFreq_bytes hi hr hdata hlen.le
  have hfull : ((s.startCount i).countBytes S).nIn = Config.maxIn := (Nat.zero_add S.length).trans hlen
  exact ⟨hrun.trans (countLoop_full rfl hrest hfull), advance_byte_inRest hrest⟩

/-- Settles O18: the first `MAX_IN` bytes are counted, and the byte after them raises. -/
theorem freqRefusesLongInput : Obligations.FreqRefusesLongInput := by
  intro s i S hi hr hdata hlong hopen
  have hsplit : S = S.take Config.maxIn ++ S[Config.maxIn] :: S.drop (Config.maxIn + 1) := by
    rw [List.cons_getElem_drop_succ, List.take_append_drop]
  have htake : (S.take Config.maxIn).length = Config.maxIn := List.length_take_of_le hlong.le
  obtain ⟨hrun, hrest⟩ := execCFreq_overflows hi hr (hdata.trans (congrArg unpackBytes hsplit)) htake
  exact ⟨_, hrun.trans (raiseErr_of_open hopen), rfl, rfl, rfl, (Nat.zero_add _).trans htake, rfl, hrest, rfl⟩

/-! ## A magic field that is not `MAGIC` -/

/-- Bits that are not the field of a number do not spell it (R8). -/
theorem value_ne_of_ne_field {n v : Nat} {b : Bits} (hlen : b.length = n) (h : b ≠ field n v) : value b ≠ v := by
  rintro rfl
  exact h (hlen ▸ field_value b).symm

/-- `D_MAGIC` on anything but the magic field raises, with only IN and the draws moved before (R202, R222). -/
theorem execDMagic_rejects {s : State} {i : InStream} (hi : s.inp = some i)
    (hbad : s.inRest.length < 32 ∨ s.inRest.take 32 ≠ field 32 Config.magic.toNat) :
    ∃ inp draws, execDMagic s = raiseErr .badMagic { s with inp := inp, draws := draws } := by
  rcases Nat.lt_or_ge s.inRest.length 32 with hshort | hlen
  · exact ⟨_, _, execDMagic_short hi hshort⟩
  · have hvalue := value_ne_of_ne_field (List.length_take_of_le hlen) (hbad.resolve_left hlen.not_gt)
    exact ⟨_, _, (execDMagic_reads hi hlen).trans (if_neg hvalue)⟩

/-- Settles O35: in both cases the phase raises, and the output is closed as it stands. -/
theorem badMagicIsRejected : Obligations.BadMagicIsRejected := by
  intro s i hi hopen hbad
  obtain ⟨inp, draws, hrun⟩ := execDMagic_rejects hi hbad
  exact ⟨_, hrun.trans (raiseErr_of_open hopen), rfl, rfl, rfl, rfl, rfl⟩

end Sys2Proof.Machine
end

section
/-! The hazards of 70_reset_and_hazards.md: a write to `CMD` while a command runs (R266). -/

namespace Sys2Proof.Machine

/-- A command that is written while one runs is not accepted, and not queued (R21, R266). -/
theorem startCommand_of_busy {s : State} (hbusy : s.runState = .busy) (c : Byte) (p : BitVec 4) :
    startCommand c p s = .next s :=
  if_pos hbusy

/-- The write of a command runs its instruction (R21, R92, R93). -/
theorem step_command {s : State} {h : List HostEvent} {v : Byte} {i : Instr} (hhost : s.host = .write 0x0 v :: h)
    (hdecode : decodeCmd v = .ok i) : step s = exec i { s with host := h } := by
  simp only [step, fetch, hhost, fetchWrite, hostReg, hdecode]

/-- The write of an illegal command while a command runs (R231, R266). -/
theorem step_illegal_of_busy {s : State} {h : List HostEvent} {v : Byte} (hbusy : s.runState = .busy) (h₁ : v ≠ 0x01)
    (h₂ : v ≠ 0x02) (hhost : s.host = .write 0x0 v :: h) : step s = .next { s with host := h } := by
  simp only [step, fetch, hhost, fetchWrite, hostReg, decodeCmd_illegal h₁ h₂, if_pos hbusy]

/-- Settles O10: the two commands find the core BUSY and start nothing, and any other value is not reported. -/
theorem commandWriteWhileBusyIsIgnored : Obligations.CommandWriteWhileBusyIsIgnored := by
  intro s h v hbusy hhost
  have hbusy' : State.runState { s with host := h } = .busy := hbusy
  obtain rfl | h₁ := eq_or_ne v 0x01
  · exact (step_command hhost rfl).trans (startCommand_of_busy hbusy' 0x01 1)
  obtain rfl | h₂ := eq_or_ne v 0x02
  · exact (step_command hhost rfl).trans (startCommand_of_busy hbusy' 0x02 9)
  · exact step_illegal_of_busy hbusy h₁ h₂ hhost

end Sys2Proof.Machine
end

section
/-! The decoders invert the encoder (R90 to R105): fields, paths of the trie at hand, and padding. -/

namespace Sys2Proof

/-! ## The path of a codeword -/

/-- The descent along a path comes to its leaf, with the bits after the path (R102, R105). -/
theorem descend_of_mem_paths {T : Trie} {sym : Symbol} {p : Bits} (x : Bits) (h : (sym, p) ∈ T.paths) :
    T.descend (p ++ x) = some (sym, p, x) := by
  induction T generalizing p with
  | leaf y w =>
    obtain ⟨rfl, rfl⟩ : sym = y ∧ p = [] := by simpa [Trie.paths] using h
    rfl
  | internal w l r ihl ihr =>
    obtain ⟨q, hq, rfl⟩ | ⟨q, hq, rfl⟩ := mem_paths_internal.mp h
    · simp [Trie.descend, ihl hq]
    · simp [Trie.descend, ihr hq]

/-- What the descent reads off the bits is a path to the leaf that it comes to. -/
theorem mem_paths_of_descend {T : Trie} {sym : Symbol} {b p x : Bits} (h : T.descend b = some (sym, p, x)) :
    (sym, p) ∈ T.paths ∧ b = p ++ x := by
  induction T generalizing b p with
  | leaf y w =>
    cases h
    exact ⟨List.mem_singleton_self _, rfl⟩
  | internal w l r ihl ihr =>
    match b, h with
    | false :: b, h =>
      obtain ⟨⟨y, q, z⟩, hdescend, hpath⟩ := Option.map_eq_some_iff.mp h
      cases hpath
      obtain ⟨hq, rfl⟩ := ihl hdescend
      exact ⟨mem_paths_internal.mpr (.inl ⟨q, hq, rfl⟩), rfl⟩
    | true :: b, h =>
      obtain ⟨⟨y, q, z⟩, hdescend, hpath⟩ := Option.map_eq_some_iff.mp h
      cases hpath
      obtain ⟨hq, rfl⟩ := ihr hdescend
      exact ⟨mem_paths_internal.mpr (.inr ⟨q, hq, rfl⟩), rfl⟩

/-- The instruction that a path of the payload is: the terminator at the sentinel's leaf, else a codeword (R102, R103). -/
def pathInstr (sym : Symbol) (p : Bits) : Instr := if sym = Config.eosSym then .terminator p else .codeword p

@[simp] theorem encode_pathInstr (sym : Symbol) (p : Bits) : encode (pathInstr sym p) = p := by
  unfold pathInstr
  split <;> rfl

/-- Only a trie that is a single leaf has an empty path. -/
theorem isInternal_of_path {T : Trie} {sym : Symbol} {p : Bits} (hne : p ≠ []) (h : (sym, p) ∈ T.paths) :
    T.isInternal = true := by
  cases T with
  | leaf y w => exact absurd (congrArg Prod.snd (List.mem_singleton.mp h)) hne
  | internal w l r => rfl

/-- Behind its first bit a path goes on in the child that the bit leads to. -/
theorem mem_paths_child {C : Trie} {sym : Symbol} {b : Bool} {p : Bits} (h : (sym, b :: p) ∈ C.paths) :
    (sym, p) ∈ (C.child b).paths := by
  cases C with
  | leaf y w => cases isInternal_of_path (List.cons_ne_nil b p) h
  | internal w l r =>
    obtain ⟨q, hq, hbit⟩ | ⟨q, hq, hbit⟩ := mem_paths_internal.mp h <;> cases hbit <;> exact hq

/-- A path of the trie is decoded as its instruction (R105). -/
theorem decodePayload_of_path {T : Trie} {sym : Symbol} {p : Bits} (x : Bits) (hne : p ≠ [])
    (h : (sym, p) ∈ T.paths) : decodePayload T (p ++ x) = .ok (pathInstr sym p, x) := by
  cases T with
  | leaf y w => cases isInternal_of_path hne h
  | internal w l r =>
    rw [decodePayload, descend_of_mem_paths x h]
    rfl

/-- What is decoded with a trie is a path of it, under an internal root (R105). -/
theorem path_of_decodePayload {T : Trie} {i : Instr} {b x : Bits} (h : decodePayload T b = .ok (i, x)) :
    ∃ sym p, p ≠ [] ∧ (sym, p) ∈ T.paths ∧ b = p ++ x ∧ i = pathInstr sym p := by
  cases T with
  | leaf y w => cases h
  | internal w l r =>
    cases hdescend : (Trie.internal w l r).descend b with
    | none =>
      rw [decodePayload, hdescend] at h
      cases h
    | some c =>
      obtain ⟨sym, p, y⟩ := c
      rw [decodePayload, hdescend] at h
      cases h
      obtain ⟨hmem, hb⟩ := mem_paths_of_descend hdescend
      exact ⟨sym, p, path_ne_nil rfl hmem, hmem, hb, rfl⟩

/-! ## The formats of fixed width -/

theorem decode_cmd_field {v : Nat} (x : Bits) (hv : v < 2 ^ 8) :
    decode .cmd (field 8 v ++ x) = (decodeCmd (BitVec.ofNat 8 v)).map fun i => (i, x) := by
  simp only [decode, takeField_field x hv]

theorem decode_phase_field {v : Nat} (x : Bits) (hv : v < 2 ^ 4) :
    decode .phase (field 4 v ++ x) = (decodePhase (BitVec.ofNat 4 v)).map fun i => (i, x) := by
  simp only [decode, takeField_field x hv]

theorem decode_magic_field (m : BitVec 32) (x : Bits) :
    decode .magic (field 32 m.toNat ++ x) = .ok (.magic m, x) := by
  simp only [decode, decodeMagic, takeField_field x m.isLt, BitVec.ofNat_toNat, BitVec.setWidth_eq]

theorem decode_leaf_field {sym : Symbol} (x : Bits) (hsym : sym.toNat ≤ 256) :
    decode .tree (true :: field 9 sym.toNat ++ x) = .ok (.nodeLeaf sym, x) := by
  simp only [decode, List.cons_append, decodeTree, takeField_field x sym.isLt, if_pos hsym, BitVec.ofNat_toNat,
    BitVec.setWidth_eq]

/-- Settles O5: a field gives its number back, a path of the trie its instruction, and the padding is all that is left. -/
theorem decodeInvertsEncode : Obligations.DecodeInvertsEncode := by
  intro T i x hwf hplace
  have hne : ∀ c : Bits, (1 ≤ c.length && c.length ≤ Config.maxCodeLen) = true → c ≠ [] := by
    rintro _ hlen rfl
    cases hlen
  cases i with
  | compress => exact decode_cmd_field x (by decide)
  | decompress => exact decode_cmd_field x (by decide)
  | cFreq => exact decode_phase_field x (by decide)
  | cBuild => exact decode_phase_field x (by decide)
  | cCodes => exact decode_phase_field x (by decide)
  | cMagic => exact decode_phase_field x (by decide)
  | cHeader => exact decode_phase_field x (by decide)
  | cPayload => exact decode_phase_field x (by decide)
  | cTerm => exact decode_phase_field x (by decide)
  | cClose => exact decode_phase_field x (by decide)
  | dMagic => exact decode_phase_field x (by decide)
  | dHeader => exact decode_phase_field x (by decide)
  | dWalk => exact decode_phase_field x (by decide)
  | dClose => exact decode_phase_field x (by decide)
  | magic m => exact decode_magic_field m x
  | nodeInternal => rfl
  | nodeLeaf sym => exact decode_leaf_field x (of_decide_eq_true hwf)
  | codeword c =>
    obtain ⟨sym, hsym, hpath⟩ := hplace
    have hdecode := decodePayload_of_path x (hne c hwf) hpath
    rwa [pathInstr, if_neg hsym] at hdecode
  | terminator c => exact decodePayload_of_path x (hne c hwf) hplace
  | pad p =>
    obtain rfl : x = [] := hplace
    have hlen : p.length ≤ 7 := of_decide_eq_true hwf
    simp only [formatOf, encode, decode, decodePad, List.append_nil, if_pos hlen]

end Sys2Proof
end

section
/-! `C_BUILD` on any counts (R131, R138 to R140): the leaves where the builder puts them, the raise where there is none, and
all that it leaves where there are two or more. -/

namespace Sys2Proof

/-! ## Weights of a merged forest -/

/-- The merge of tries whose weights add is a trie whose weights add (R136). -/
theorem mergeForest_weightsAdd {fuel : Nat} {F : List Trie} {T : Trie} (hF : ∀ U ∈ F, U.weightsAdd = true)
    (h : mergeForest fuel F = some T) : T.weightsAdd = true := by
  induction fuel generalizing F with
  | zero =>
    obtain rfl | ⟨_, _, _, _, _, hfuel, -⟩ := mergeForest_eq_some h
    · exact hF T (List.mem_singleton_self T)
    · cases hfuel
  | succ fuel ih =>
    obtain rfl | ⟨_, a, b, G, H, hfuel, ha, hb, hrest⟩ := mergeForest_eq_some h
    · exact hF T (List.mem_singleton_self T)
    · cases hfuel
      have hperm : F.Perm (a :: b :: H) := (takeLeast_perm ha).trans ((takeLeast_perm hb).cons a)
      obtain ⟨hwa, hwb, hH⟩ : a.weightsAdd = true ∧ b.weightsAdd = true ∧ ∀ U ∈ H, U.weightsAdd = true := by
        simpa [hperm.mem_iff] using hF
      refine ih (fun U hU => ?_) hrest
      rcases List.mem_append.mp hU with hU | hU
      · exact hH U hU
      · rw [List.mem_singleton.mp hU]
        simp [Trie.weightsAdd, hwa, hwb]

/-- The weights of the trie of the leaves `L` add (R136). -/
theorem huffman_weightsAdd {L : List (Symbol × Nat)} {T : Trie} (hL : 2 ≤ L.length) (h : huffman L = some T) :
    T.weightsAdd = true := by
  rw [Machine.huffman_of_many hL] at h
  refine mergeForest_weightsAdd (fun U hU => ?_) h
  obtain ⟨c, -, rfl⟩ := List.mem_map.mp hU
  rfl

namespace Machine

/-! ## The leaves -/

/-- The placed leaves are a forest of leaves, one for each positive count (R131). -/
theorem forest_placeLeaves (s : State) :
    s.placeLeaves.nodeCount = (positives s.freq).length ∧ s.placeLeaves.Forest (leafForest (positives s.freq)) := by
  rw [placeLeaves_eq_foldl]
  exact forest_addLeaves s _ ((positives_length s.freq).trans (by decide))

theorem leafForest_indices (L : List (Symbol × Nat)) : (leafForest L).map Prod.fst = List.range L.length := by
  induction L using List.reverseRecOn with
  | nil => rfl
  | append_singleton L c ih =>
    rw [leafForest_concat, List.map_append, ih, List.length_append, List.length_singleton, List.range_succ]
    rfl

theorem mem_leafForest {L : List (Symbol × Nat)} {k : Nat} {c : Symbol × Nat} (h : L[k]? = some c) :
    (k, Trie.leaf c.1 c.2) ∈ leafForest L :=
  List.mem_of_getElem? (i := k) (by rw [leafForest, List.getElem?_mapIdx, h]; rfl)

/-- Settles O19: the leaves stand in the forest at their places in the list of the positive counts, and no other node is
live. -/
theorem leavesAreInSymbolOrder : Obligations.LeavesAreInSymbolOrder := by
  intro s k c hc
  obtain ⟨hcount, hforest⟩ := forest_placeLeaves s
  have hlive : ∀ j, s.placeLeaves.readLive j = true ↔ j < (positives s.freq).length := fun j => by
    rw [hforest.live, leafForest_indices, List.mem_range]
  obtain ⟨hk, -⟩ := List.getElem?_eq_some_iff.mp hc
  have hleaf : Stores s.placeLeaves.nodes s.placeLeaves.nodeCount (.leaf c.1 c.2) k :=
    hforest.stored _ (mem_leafForest hc)
  exact ⟨hcount, hleaf.2, (hlive k).mpr hk, fun j hj => Bool.eq_false_iff.mpr fun h => hj.not_gt ((hlive j).mp h)⟩

/-! ## No positive count -/

/-- Settles O24: no leaf is placed, so the builder raises with the emptied store. -/
theorem buildNeedsACount : Obligations.BuildNeedsACount := by
  intro s o hnone ho hc ha
  have hempty : s.placeLeaves = s.emptyStore := by rw [placeLeaves_eq_foldl, hnone]; rfl
  have hraise := raiseEndsTheCommand .construction s.emptyStore o ho hc ha
  have hrun : execCBuild s = raiseErr .construction s.emptyStore := by
    simp only [execCBuild, hempty, emptyStore_nodeCount, if_true]
  exact hrun.trans hraise

/-! ## Two or more positive counts -/

/-- `C_BUILD` where two or more leaves are placed is the merge loop. -/
theorem execCBuild_mergeLoop {s : State} (h : 2 ≤ (positives s.freq).length) :
    execCBuild s = .next (mergeLoop s.placeLeaves.nodeCount s.placeLeaves).finishBuild := by
  obtain ⟨hcount, -⟩ := forest_placeLeaves s
  have hzero : s.placeLeaves.nodeCount ≠ 0 := by omega
  have hone : s.placeLeaves.nodeCount ≠ 1 := by omega
  simp only [execCBuild, if_neg hzero, if_neg hone]

/-- The merge loop over the placed leaves leaves one trie, at the last index in use (R132, R139). -/
theorem forest_merged {s : State} (h : 2 ≤ (positives s.freq).length) :
    ∃ U, (mergeLoop s.placeLeaves.nodeCount s.placeLeaves).nodeCount = 2 * (positives s.freq).length - 1 ∧
      (mergeLoop s.placeLeaves.nodeCount s.placeLeaves).Forest [(2 * (positives s.freq).length - 2, U)] := by
  have hle := positives_length s.freq
  obtain ⟨hcount, hforest⟩ := forest_placeLeaves s
  obtain ⟨L, c, hL⟩ : ∃ L c, positives s.freq = L ++ [c] :=
    ⟨_, _, (List.dropLast_append_getLast (List.ne_nil_of_length_pos (by omega))).symm⟩
  have hlen : (positives s.freq).length = L.length + 1 := by rw [hL, List.length_append, List.length_singleton]
  rw [hL, leafForest_concat] at hforest
  rw [hlen] at hcount
  obtain ⟨U, -, hcountU, hforestU⟩ := forest_mergeLoop (fuel := s.placeLeaves.nodeCount) hforest hcount
    (by rw [leafForest_length]; omega) (by rw [leafForest_length]; omega)
  rw [leafForest_length] at hcountU hforestU
  have hlast : 2 * (positives s.freq).length - 2 = L.length + L.length := by omega
  exact ⟨U, by omega, hlast ▸ hforestU⟩

/-- Settles O22: the store holds the trie of the forest merge, and the one trie that the merge leaves is the one live node,
the last in use. -/
theorem buildMakesTheTrie : Obligations.BuildMakesTheTrie := by
  intro s h
  obtain ⟨u, T, hrun, hhuffman, htrie, hperm⟩ := execCBuild_of_many h
  obtain ⟨U, hcount, hforest⟩ := forest_merged h
  have hmerged : (s.withStore u).finishBuild = (mergeLoop s.placeLeaves.nodeCount s.placeLeaves).finishBuild :=
    Host.Outcome.next.inj (hrun.symm.trans (execCBuild_mergeLoop h))
  have hframe : { (s.withStore u).finishBuild with
      nodes := s.nodes, live := s.live, nodeCount := s.nodeCount, root := s.root, phase := s.phase } = s := rfl
  rw [hmerged] at hrun htrie hframe
  have hroot : (mergeLoop s.placeLeaves.nodeCount s.placeLeaves).finishBuild.root =
      2 * (positives s.freq).length - 2 := by
    rw [finishBuild_root, hcount]
    omega
  have hlive : ∀ j, (mergeLoop s.placeLeaves.nodeCount s.placeLeaves).readLive j = true ↔
      j = 2 * (positives s.freq).length - 2 := fun j => (hforest.live j).trans List.mem_singleton
  exact ⟨_, T, hrun, htrie, hhuffman, hperm, huffman_weightsAdd h hhuffman, (encodes_of_perm h hperm).internal, hcount,
    rfl, forest_liveCount hforest, fun j => (hlive j).trans (by rw [hroot]), rfl, hframe⟩

end Machine

end Sys2Proof
end

section
/-! Rules of the two payload tokens (R102, R103, R203): the walk along a path of the trie ends at its leaf, one bit a
round, wherever IN stands. -/

namespace Sys2Proof.Machine

/-! ## The rounds along a path -/

/-- The bits of a path lead to its leaf, and the last round does there what is to be done. -/
theorem walkBits_path {s : State} {C : Trie} {sym : Symbol} {p : Bits} (hC : s.StandsAt C) (hne : p ≠ [])
    (h : (sym, p) ∈ C.paths) :
    ∃ k w, (s.moveTo k).StandsAt (.leaf sym w) ∧
      walkBits p s = andThen (arrive (.leaf sym w) (s.moveTo k)) fun a => .next a.2 := by
  induction p generalizing s C with
  | nil => exact absurd rfl hne
  | cons b p ih =>
    obtain ⟨k, hstands, hrun⟩ := walkBit_child hC (isInternal_of_path hne h) b
    have hchild := mem_paths_child h
    cases hD : C.child b with
    | leaf y w =>
      rw [hD] at hchild hstands hrun
      obtain ⟨rfl, rfl⟩ := Prod.mk.inj (List.mem_singleton.mp hchild)
      refine ⟨k, w, hstands, ?_⟩
      rw [walkBits, hrun]
      exact congrArg (andThen _) (funext fun ⟨more, t⟩ => by cases more <;> rfl)
    | internal w l r =>
      rw [hD] at hchild hstands hrun
      obtain ⟨j, v, hleaf, hrest⟩ := ih hstands (path_ne_nil rfl hchild) hchild
      exact ⟨j, v, hleaf, by rw [walkBits, hrun]; exact hrest⟩

/-- Settles O44: the last bit of the path leads to the byte's leaf, where the byte is written and the cursor goes back to
the root, where it was. -/
theorem codewordWritesItsByte : Obligations.CodewordWritesItsByte := by
  intro s T sym c o htrie hcur hpath hne hsym ho hc ha
  have hstands : s.StandsAt T := ⟨257, hcur ▸ htrie⟩
  have hbyte : sym ≠ Config.eosSym := by
    rintro rfl
    exact absurd hsym (by decide)
  obtain ⟨k, w, -, hrun⟩ := walkBits_path hstands hne hpath
  rw [arrive_byte (s := s.moveTo k) w hbyte ⟨o, ho, hc, ha⟩] at hrun
  have hstate : ((s.moveTo k).put (field 8 sym.toNat)).moveTo s.root =
      { s with out := some { o with bits := o.bits ++ field 8 sym.toNat } } := by
    simp [State.moveTo, State.put, outPlus, ho, ← hcur]
  exact hrun.trans (congrArg Host.Outcome.next hstate)

/-- Settles O45: the last bit of the path leads to a leaf of the sentinel, where the cursor stays. -/
theorem terminatorEndsTheWalk : Obligations.TerminatorEndsTheWalk := by
  intro s T c htrie hcur hpath hne
  obtain ⟨k, w, ⟨fuel, hleaf⟩, hrun⟩ := walkBits_path (s := s) ⟨257, hcur ▸ htrie⟩ hne hpath
  obtain ⟨n, hn, hl, hsym, -⟩ := treeAt_leaf hleaf
  rw [arrive_eos] at hrun
  exact ⟨k, n, hrun, hn, hl, hsym⟩

/-! ## The rounds in the loop -/

/-- A write to OUT neither reads IN nor moves it. -/
theorem outBits_advance (m v : Nat) (s : State) (n : Nat) :
    outBits m v (s.advance n) = andThen (outBits m v s) fun t => .next (t.advance n) := by
  have hout : (s.advance n).out = s.out := rfl
  unfold outBits
  rw [hout]
  split
  · rfl
  · split <;> rfl

/-- A round of the walk neither reads IN nor moves it. -/
theorem walkBit_advance (b : Bool) (s : State) (n : Nat) :
    walkBit b (s.advance n) = andThen (walkBit b s) fun p => .next (p.1, p.2.advance n) := by
  have hroot : (s.advance n).readNode (s.advance n).cur = s.readNode s.cur := rfl
  cases hnd : s.readNode s.cur with
  | none => simp only [walkBit, hroot, hnd, andThen_of_fault]
  | some nd =>
    have hchild : State.readNode { s.advance n with cur := if b then nd.right else nd.left }
        (if b then nd.right else nd.left) = State.readNode { s with cur := if b then nd.right else nd.left }
        (if b then nd.right else nd.left) := rfl
    simp only [walkBit, hroot, hnd, hchild]
    split
    · rfl
    · split
      · split
        · rfl
        · rw [andThen_assoc]
          exact (congrArg (andThen · _) (outBits_advance 8 _ { s with cur := _ } n)).trans (andThen_assoc _ _ _)
      · rfl

theorem walkBit_advanceBits {b more : Bool} {s t : State} (n : Nat) (h : walkBit b s = .next (more, t)) :
    walkBit b (s.advanceBits n) = .next (more, t.advanceBits n) := by
  induction n generalizing s t with
  | zero => exact h
  | succ n ih => exact ih (by rw [walkBit_advance, h]; rfl)

/-- The loop on the bits of a path does what the token does, IN having been read bit by bit, and goes on but after the
terminator (R203). -/
theorem walkLoop_path {s : State} {i : InStream} {C : Trie} {sym : Symbol} {p x : Bits} (fuel : Nat)
    (hi : s.inp = some i) (hrest : s.inRest = p ++ x) (hC : s.StandsAt C) (hne : p ≠ []) (h : (sym, p) ∈ C.paths) :
    walkLoop (fuel + p.length) s =
      andThen (walkBits p (s.advanceBits p.length)) fun t =>
        if sym = Config.eosSym then .next t else walkLoop fuel t := by
  induction p generalizing s i C with
  | nil => exact absurd rfl hne
  | cons b p ih =>
    obtain ⟨k, hstands, hrun⟩ := walkBit_child (s := s.advance 1) hC (isInternal_of_path hne h) b
    have hchild := mem_paths_child h
    rw [List.length_cons, ← Nat.add_assoc, walkLoop_bit hi hrest, walkBits, State.advanceBits]
    cases hD : C.child b with
    | leaf y w =>
      rw [hD] at hchild hrun
      obtain ⟨rfl, rfl⟩ := Prod.mk.inj (List.mem_singleton.mp hchild)
      rw [List.length_nil, State.advanceBits, hrun, arrive]
      split
      · rfl
      · rw [andThen_assoc, andThen_assoc, andThen_assoc]
        rfl
    | internal w l r =>
      rw [hD] at hchild hstands hrun
      rw [walkBit_advanceBits p.length hrun, hrun]
      exact ih (s := (s.advance 1).moveTo k) (advance_inp hi 1) (advance_bit_inRest hrest) hstands
        (path_ne_nil rfl hchild) hchild

/-- Settles O3: what the trie decodes is a path, and the loop along it is the token's own operation. -/
theorem payloadTokensRunInTheWalk : Obligations.PayloadTokensRunInTheWalk := by
  intro s j T i rest fuel hj htrie hcur hdecode
  obtain ⟨sym, p, hne, hpath, hrest, rfl⟩ := path_of_decodePayload hdecode
  have hloop := walkLoop_path fuel hj hrest ⟨257, hcur ▸ htrie⟩ hne hpath
  rw [encode_pathInstr, hloop]
  by_cases hsym : sym = Config.eosSym <;> simp [pathInstr, hsym, exec, execCodeword, execTerminator]

/-! ## `D_WALK` up to the terminator -/

/-- Settles O38: the loop ends as the walk does, with one bit read for each bit that the walk takes. -/
theorem walkDecodesThePayload : Obligations.WalkDecodesThePayload := by
  intro s i T bytes rest hi htrie hroot hopen hwalk
  have hends := execDWalk_walk hi htrie hroot hopen
  rw [hwalk] at hends
  generalize hrun : execDWalk s = o at hends
  cases hends with
  | @terminator n k S hn =>
    have hn' : n ≤ s.inRest.length := hn
    have hinp := walked_inp (s := s.moveTo s.root) hi n bytes k
    have hread : s.inRest.length - ((s.moveTo s.root).inRest.drop n).length = n := by
      rw [List.length_drop]
      exact Nat.sub_sub_self hn'
    refine ⟨_, hrun, rfl, walked_inRest _ n bytes k, rfl, ?_, ⟨i, _, hi, hinp, by rw [hread]⟩, rfl⟩
    rw [SameInput, hi]
    exact congrArg (Option.map fun i => (i.data, i.canRewind)) hinp.symm

end Sys2Proof.Machine
end

section
/-! What an instruction does to the control registers and the ports (R22 to R24, R234, R235): it works, with the registers
as they were, IN only read and OUT only written, and then it goes on to a phase or raises. -/

namespace Sys2Proof.Machine

/-! ## Working -/

/-- The IN stream has only been read: its content and kind are as before, and there are more transactions, with no
rewind unless one is allowed (R39, R63). -/
structure ReadsOn (rewinds : Bool) (a b : Option InStream) : Prop where
  same : a.map (fun i => (i.data, i.canRewind)) = b.map fun i => (i.data, i.canRewind)
  log : ∀ i, a = some i → ∃ j new, b = some j ∧ j.log = i.log ++ new ∧ (.rewind ∈ new → rewinds = true)

/-- The OUT stream has only been written: its bits are the first ones still, and it is as open as before (R64). -/
structure WritesOn (a b : Option OutStream) : Prop where
  bits : (a.elim [] fun o => o.bits) <+: b.elim [] fun o => o.bits
  flags : b.map (fun o => (o.closed, o.abandoned)) = a.map fun o => (o.closed, o.abandoned)

/-- `u` comes from `s` by the work of an instruction before its last effect: the control registers and what is not the
core's are as before, the ports have been used, and the working registers and tables may be any. -/
structure Works (rewinds : Bool) (s u : State) : Prop where
  cmd : u.cmd = s.cmd
  runState : u.runState = s.runState
  phase : u.phase = s.phase
  err : u.err = s.err
  host : u.host = s.host
  detachedIn : u.detachedIn = s.detachedIn
  detachedOut : u.detachedOut = s.detachedOut
  inp : ReadsOn rewinds s.inp u.inp
  out : WritesOn s.out u.out

theorem readsOn_refl (rewinds : Bool) (a : Option InStream) : ReadsOn rewinds a a :=
  ⟨rfl, fun i hi => ⟨i, [], hi, (List.append_nil _).symm, nofun⟩⟩

theorem readsOn_trans {rewinds : Bool} {a b c : Option InStream} (hab : ReadsOn rewinds a b)
    (hbc : ReadsOn rewinds b c) : ReadsOn rewinds a c := by
  refine ⟨hab.same.trans hbc.same, fun i hi => ?_⟩
  obtain ⟨j, new, hj, hlog, hnew⟩ := hab.log i hi
  obtain ⟨k, more, hk, hlog', hmore⟩ := hbc.log j hj
  refine ⟨k, new ++ more, hk, by rw [hlog', hlog, List.append_assoc], fun h => ?_⟩
  exact (List.mem_append.mp h).elim hnew hmore

/-- A transaction moves the stream and is recorded. -/
theorem readsOn_transaction {rewinds : Bool} (a : Option InStream) (pos : InStream → Nat) {tx : InTx}
    (htx : tx = .rewind → rewinds = true) :
    ReadsOn rewinds a (a.map fun i => { i with pos := pos i, log := i.log ++ [tx] }) := by
  cases a with
  | none => exact ⟨rfl, nofun⟩
  | some i =>
    refine ⟨rfl, fun j hj => ⟨_, [tx], rfl, by cases hj; rfl, fun h => htx (List.mem_singleton.mp h).symm⟩⟩

theorem writesOn_refl (a : Option OutStream) : WritesOn a a := ⟨List.prefix_rfl, rfl⟩

theorem writesOn_trans {a b c : Option OutStream} (hab : WritesOn a b) (hbc : WritesOn b c) : WritesOn a c :=
  ⟨hab.bits.trans hbc.bits, hbc.flags.trans hab.flags⟩

/-- The state with the working registers and tables of `u` (R25 to R30). -/
def State.withTables (s u : State) : State :=
  { s with
    nIn := u.nIn, nodeCount := u.nodeCount, root := u.root, cur := u.cur, path := u.path, plen := u.plen, sp := u.sp
    freq := u.freq, nodes := u.nodes, live := u.live, code := u.code, stk := u.stk, draws := u.draws }

/-- A write to the working registers and tables is work. -/
theorem works_tables {rewinds : Bool} {s u : State} (h : s.withTables u = u) : Works rewinds s u := by
  rw [← h]
  exact ⟨rfl, rfl, rfl, rfl, rfl, rfl, rfl, readsOn_refl _ _, writesOn_refl _⟩

theorem works_refl (rewinds : Bool) (s : State) : Works rewinds s s := works_tables rfl

theorem works_trans {rewinds : Bool} {s t u : State} (hst : Works rewinds s t) (htu : Works rewinds t u) :
    Works rewinds s u where
  cmd := htu.cmd.trans hst.cmd
  runState := htu.runState.trans hst.runState
  phase := htu.phase.trans hst.phase
  err := htu.err.trans hst.err
  host := htu.host.trans hst.host
  detachedIn := htu.detachedIn.trans hst.detachedIn
  detachedOut := htu.detachedOut.trans hst.detachedOut
  inp := readsOn_trans hst.inp htu.inp
  out := writesOn_trans hst.out htu.out

theorem works_advance (rewinds : Bool) (s : State) (n : Nat) : Works rewinds s (s.advance n) :=
  ⟨rfl, rfl, rfl, rfl, rfl, rfl, rfl, readsOn_transaction s.inp _ nofun, writesOn_refl _⟩

theorem works_afterEos (rewinds : Bool) (s : State) (n : Nat) : Works rewinds s (afterEos s n) :=
  ⟨rfl, rfl, rfl, rfl, rfl, rfl, rfl, readsOn_transaction s.inp _ nofun, writesOn_refl _⟩

theorem works_inRewind {s t : State} (h : inRewind s = .next t) : Works true s t := by
  obtain ⟨i, hi, -, rfl⟩ := inRewind_next h
  have hread := readsOn_transaction (rewinds := true) s.inp (fun _ => 0) (tx := .rewind) fun _ => rfl
  rw [hi] at hread
  exact ⟨rfl, rfl, rfl, rfl, rfl, rfl, rfl, hi ▸ hread, writesOn_refl _⟩

theorem works_outBits {rewinds : Bool} {n v : Nat} {s t : State} (h : outBits n v s = .next t) :
    Works rewinds s t := by
  obtain ⟨o, ho, -, -, rfl⟩ := outBits_next h
  exact ⟨rfl, rfl, rfl, rfl, rfl, rfl, rfl, readsOn_refl _ _, by rw [ho]; exact ⟨List.prefix_append _ _, rfl⟩⟩

/-! ## The last effect -/

/-- The instruction ends in `t`: after its work it goes on to one of the phases `ps` or raises one of the errors `es`. -/
def Ends (rewinds : Bool) (ps : List (BitVec 4)) (es : List Err) (s t : State) : Prop :=
  ∃ u, Works rewinds s u ∧ ((∃ p ∈ ps, t = u.setPhase p) ∨ ∃ e ∈ es, raiseErr e u = .next t)

variable {rewinds : Bool} {ps : List (BitVec 4)} {es : List Err} {s t u : State}

theorem ends_of_works (hwork : Works rewinds s u) (h : Ends rewinds ps es u t) : Ends rewinds ps es s t := by
  obtain ⟨v, hv, hlast⟩ := h
  exact ⟨v, works_trans hwork hv, hlast⟩

theorem ends_setPhase {p : BitVec 4} (hwork : Works rewinds s u) (hp : p ∈ ps) :
    Ends rewinds ps es s (u.setPhase p) := ⟨u, hwork, .inl ⟨p, hp, rfl⟩⟩

theorem ends_raise {e : Err} (hwork : Works rewinds s u) (he : e ∈ es) (h : raiseErr e u = .next t) :
    Ends rewinds ps es s t := ⟨u, hwork, .inr ⟨e, he, h⟩⟩

/-- An instruction that only works stays in its phase. -/
theorem ends_works (hwork : Works rewinds s t) (hp : s.phase ∈ ps) : Ends rewinds ps es s t :=
  ⟨t, hwork, .inl ⟨s.phase, hp, by rw [← hwork.phase]; rfl⟩⟩

/-- Where more is allowed. -/
theorem ends_mono {qs : List (BitVec 4)} {fs : List Err} (h : Ends rewinds ps es s t) (hps : ps ⊆ qs) (hes : es ⊆ fs) :
    Ends rewinds qs fs s t := by
  obtain ⟨u, hwork, ⟨p, hp, hset⟩ | ⟨e, he, hraise⟩⟩ := h
  · exact ⟨u, hwork, .inl ⟨p, hps hp, hset⟩⟩
  · exact ⟨u, hwork, .inr ⟨e, hes he, hraise⟩⟩

/-! ## The loops -/

theorem ends_countLoop {maxIn fuel : Nat} (h : countLoop maxIn fuel s = .next t) :
    Ends rewinds [2] [.countOverflow] s t := by
  induction fuel generalizing s with
  | zero => cases h
  | succ fuel ih =>
    simp only [countLoop] at h
    obtain ⟨⟨v, u⟩, hu, h⟩ := andThen_eq_next.mp h
    obtain ⟨-, ⟨-, rfl, rfl⟩ | ⟨-, rfl, rfl⟩⟩ := inBits_next hu
    · simp only at h
      split at h
      · exact ends_raise (works_advance _ s 8) (List.mem_singleton_self _) h
      · exact ends_of_works (works_advance _ s 8) (ends_of_works (works_tables rfl) (ih h))
    · cases h
      exact ends_setPhase (works_trans (works_afterEos _ s 8) (works_tables rfl)) (List.mem_singleton_self _)

theorem ends_payloadLoop {fuel : Nat} (h : payloadLoop fuel s = .next t) : Ends rewinds [7] [.noCode] s t := by
  induction fuel generalizing s with
  | zero => cases h
  | succ fuel ih =>
    simp only [payloadLoop] at h
    obtain ⟨⟨v, u⟩, hu, h⟩ := andThen_eq_next.mp h
    obtain ⟨-, ⟨-, rfl, rfl⟩ | ⟨-, rfl, rfl⟩⟩ := inBits_next hu
    · simp only at h
      split at h
      · exact ends_raise (works_advance _ s 8) (List.mem_singleton_self _) h
      · obtain ⟨w, hw, h⟩ := andThen_eq_next.mp h
        exact ends_of_works (works_trans (works_advance _ s 8) (works_outBits hw)) (ih h)
    · cases h
      exact ends_setPhase (works_afterEos _ s 8) (List.mem_singleton_self _)

/-- A round of the walk only works where the loop goes on, and is over with the phase where it does not. -/
theorem walkBit_works {b more : Bool} (h : walkBit b s = .next (more, t)) :
    (more = true ∧ Works rewinds s t) ∨ (more = false ∧ ∃ u, Works rewinds s u ∧ t = u.setPhase 12) := by
  obtain ⟨rfl, cur, rfl⟩ | ⟨rfl, cur, rfl⟩ | ⟨rfl, cur, v, u, hu, rfl⟩ := walkBit_next h
  · exact .inl ⟨rfl, works_tables rfl⟩
  · exact .inr ⟨rfl, { s with cur := cur }, works_tables rfl, rfl⟩
  · exact .inl ⟨rfl, works_trans (works_trans (works_tables rfl) (works_outBits hu)) (works_tables rfl)⟩

theorem ends_walkLoop {fuel : Nat} (h : walkLoop fuel s = .next t) : Ends rewinds [12] [.noEos] s t := by
  induction fuel generalizing s with
  | zero => cases h
  | succ fuel ih =>
    simp only [walkLoop] at h
    obtain ⟨⟨v, u⟩, hu, h⟩ := andThen_eq_next.mp h
    obtain ⟨-, ⟨-, rfl, rfl⟩ | ⟨-, rfl, rfl⟩⟩ := inBits_next hu
    · obtain ⟨⟨more, w⟩, hw, h⟩ := andThen_eq_next.mp h
      refine ends_of_works (works_advance _ s 1) ?_
      obtain ⟨rfl, hwork⟩ | ⟨rfl, v, hwork, rfl⟩ := walkBit_works (rewinds := rewinds) hw
      · exact ends_of_works hwork (ih h)
      · cases h
        exact ends_setPhase hwork (List.mem_singleton_self _)
    · exact ends_raise (works_afterEos _ s 1) (List.mem_singleton_self _) h

theorem ends_walkBits {c : Bits} (h : walkBits c s = .next t) : Ends rewinds [s.phase, 12] [] s t := by
  induction c generalizing s with
  | nil =>
    cases h
    exact ends_works (works_refl _ _) List.mem_cons_self
  | cons b c ih =>
    obtain ⟨⟨more, w⟩, hw, h⟩ := andThen_eq_next.mp h
    obtain ⟨rfl, hwork⟩ | ⟨rfl, v, hwork, rfl⟩ := walkBit_works (rewinds := rewinds) hw
    · rw [← hwork.phase]
      exact ends_of_works hwork (ih h)
    · cases h
      exact ends_setPhase hwork (by simp)

/-- The errors of `D_HEADER` (R165 to R168). -/
def headerErrors : List Err := [.truncHeader, .treeOverflow, .badSymbol, .degenerateTree]

theorem works_pushInternal (s : State) : Works rewinds s s.pushInternal := by
  refine works_tables ?_
  unfold State.pushInternal State.pushStk
  split <;> rfl

/-- An internal-node token only works where the loop goes on, and raises where it does not. -/
theorem internalToken_works {more : Bool} (h : internalToken s = .next (more, t)) :
    (more = true ∧ Works rewinds s t) ∨ (more = false ∧ Ends rewinds [] headerErrors s t) := by
  obtain ⟨-, rfl, hraise⟩ | ⟨-, rfl, rfl⟩ := internalToken_next h
  · exact .inr ⟨rfl, ends_raise (works_refl _ s) (by decide) hraise⟩
  · exact .inl ⟨rfl, works_pushInternal s⟩

theorem ends_finishHeader {root : Nat} (h : finishHeader root s = .next t) : Ends rewinds [11] headerErrors s t := by
  unfold finishHeader at h
  split at h
  · cases h
  · simp only at h
    split at h
    · exact ends_raise (works_tables rfl) (by decide) h
    · cases h
      exact ends_setPhase (works_tables rfl) (List.mem_singleton_self _)

/-- A leaf token only works where the loop goes on; where it does not the header is over or has failed. -/
theorem leafToken_works {sym : Symbol} {more : Bool} (h : leafToken sym s = .next (more, t)) :
    (more = true ∧ Works rewinds s t) ∨ (more = false ∧ Ends rewinds [11] headerErrors s t) := by
  unfold leafToken at h
  split at h
  · obtain ⟨rfl, hraise⟩ := raiseRound_next h
    exact .inr ⟨rfl, ends_raise (works_refl _ s) (by decide) hraise⟩
  · split at h
    · obtain ⟨rfl, hraise⟩ := raiseRound_next h
      exact .inr ⟨rfl, ends_raise (works_tables rfl) (by decide) hraise⟩
    · obtain ⟨⟨done, u⟩, hu, h⟩ := andThen_eq_next.mp h
      obtain ⟨nodes, stk, sp, rfl⟩ := closeSubtrees_next hu
      cases done with
      | none =>
        cases h
        exact .inl ⟨rfl, works_tables rfl⟩
      | some root =>
        obtain ⟨v, hv, h⟩ := andThen_eq_next.mp h
        cases h
        exact .inr ⟨rfl, ends_of_works (works_tables rfl) (ends_finishHeader hv)⟩

/-- One round of the header loop that answers: it raises, or it does what its token does and goes on or is over. -/
theorem headerLoop_succ_next {fuel : Nat} (h : headerLoop (fuel + 1) s = .next t) :
    (∃ e u, e ∈ headerErrors ∧ raiseErr e u = .next t ∧
        (u = afterEos s 1 ∨ u = s.advance 1 ∨ (s.nodeCount < 513 ∧ u = (afterEos (s.advance 1) 9).takeIndex))) ∨
      ∃ more v, (if more then headerLoop fuel v else .next v) = .next t ∧
        (internalToken (s.advance 1) = .next (more, v) ∨
          ∃ sym, leafToken sym ((s.advance 1).advance 9) = .next (more, v)) := by
  simp only [headerLoop] at h
  obtain ⟨⟨b, u⟩, hu, h⟩ := andThen_eq_next.mp h
  obtain ⟨-, ⟨-, rfl, rfl⟩ | ⟨-, rfl, rfl⟩⟩ := inBits_next hu
  · simp only at h
    split at h
    · exact .inl ⟨_, _, by decide, h, .inr (.inl rfl)⟩
    · rename_i hroom
      split at h
      · obtain ⟨⟨more, v⟩, hv, h⟩ := andThen_eq_next.mp h
        exact .inr ⟨more, v, h, .inl hv⟩
      · obtain ⟨⟨x, w⟩, hw, h⟩ := andThen_eq_next.mp h
        obtain ⟨-, ⟨-, rfl, rfl⟩ | ⟨-, rfl, rfl⟩⟩ := inBits_next hw
        · obtain ⟨⟨more, v⟩, hv, h⟩ := andThen_eq_next.mp h
          exact .inr ⟨more, v, h, .inr ⟨_, hv⟩⟩
        · exact .inl ⟨_, _, by decide, h, .inr (.inr ⟨Nat.lt_of_not_le hroom, rfl⟩)⟩
  · exact .inl ⟨_, _, by decide, h, .inl rfl⟩

theorem ends_headerLoop {fuel : Nat} (h : headerLoop fuel s = .next t) : Ends rewinds [11] headerErrors s t := by
  induction fuel generalizing s with
  | zero => cases h
  | succ fuel ih =>
    have hread := works_advance rewinds s 1
    obtain ⟨e, u, he, hraise, rfl | rfl | ⟨-, rfl⟩⟩ | ⟨more, v, hgo, hv | ⟨sym, hv⟩⟩ := headerLoop_succ_next h
    · exact ends_raise (works_afterEos _ s 1) he hraise
    · exact ends_raise hread he hraise
    · exact ends_raise (works_trans hread (works_trans (works_afterEos _ _ 9) (works_tables rfl))) he hraise
    · obtain ⟨rfl, hwork⟩ | ⟨rfl, hends⟩ := internalToken_works (rewinds := rewinds) hv
      · exact ends_of_works (works_trans hread hwork) (ih hgo)
      · cases hgo
        exact ends_of_works hread (ends_mono hends (List.nil_subset _) (List.Subset.refl _))
    · obtain ⟨rfl, hwork⟩ | ⟨rfl, hends⟩ := leafToken_works (rewinds := rewinds) hv
      · exact ends_of_works (works_trans hread (works_trans (works_advance _ _ 9) hwork)) (ih hgo)
      · cases hgo
        exact ends_of_works (works_trans hread (works_advance _ _ 9)) hends

end Sys2Proof.Machine
end

section
/-! What each instruction can end in, said once, and the laws of `PHASE`, `ERR` and the ports that follow from it (R22 to
R24, R39, R65, R234, R235). -/

namespace Sys2Proof.Machine

/-! ## The effect of an instruction -/

/-- Whether an instruction rewinds the input (R121, R183). -/
def rewindsInput : Instr → Bool
  | .cFreq | .cPayload => true
  | _ => false

/-- The errors that an instruction can raise (R221). -/
def errorsOf : Instr → List Err
  | .cFreq => [.countOverflow]
  | .cBuild => [.construction]
  | .cPayload => [.noCode]
  | .dMagic | .magic _ => [.badMagic]
  | .dHeader | .nodeInternal | .nodeLeaf _ => headerErrors
  | .dWalk => [.noEos]
  | .compress | .decompress | .cCodes | .cMagic | .cHeader | .cTerm | .cClose | .dClose => []
  | .codeword _ | .terminator _ | .pad _ => []

/-- Where `PHASE` can be after an instruction that neither is a command nor ends one: a phase goes on to the next code, and
a token stays in its phase or ends it (R24). -/
def phasesAfter (s : State) : Instr → List (BitVec 4)
  | .compress | .decompress | .cClose | .dClose => []
  | .magic _ => [10]
  | .nodeInternal | .pad _ => [s.phase]
  | .nodeLeaf _ => [s.phase, 11]
  | .codeword _ | .terminator _ => [s.phase, 12]
  | .cFreq => [2]
  | .cBuild => [3]
  | .cCodes => [4]
  | .cMagic => [5]
  | .cHeader => [6]
  | .cPayload => [7]
  | .cTerm => [8]
  | .dMagic => [10]
  | .dHeader => [11]
  | .dWalk => [12]

/-- What an instruction can end in: a command is accepted or ignored, a closing phase ends its command, any other
instruction works and goes on or raises. -/
inductive Effect (i : Instr) (s : State) : State → Prop
  | accepts {c : Byte} {p : BitVec 4} : (i = .compress ∧ c = 1 ∧ p = 1) ∨ (i = .decompress ∧ c = 2 ∧ p = 9) →
      Effect i s (s.accept c p)
  | ignored : i = .compress ∨ i = .decompress → Effect i s s
  | closes {t : State} : i = .cClose ∨ i = .dClose → endCommand s = .next t → Effect i s t
  | ends {t : State} : Ends (rewindsInput i) (phasesAfter s i) (errorsOf i) s t → Effect i s t

variable {i : Instr} {s t u : State}

/-! ## Phase by phase -/

theorem effect_startCommand {c : Byte} {p : BitVec 4}
    (hi : (i = .compress ∧ c = 1 ∧ p = 1) ∨ (i = .decompress ∧ c = 2 ∧ p = 9)) (h : startCommand c p s = .next t) :
    Effect i s t := by
  obtain ⟨-, rfl⟩ | ⟨-, rfl⟩ := startCommand_next h
  · exact .ignored (hi.imp And.left And.left)
  · exact .accepts hi

theorem works_buildsOn {rewinds : Bool} (h : BuildsOn s u) : Works rewinds s u := by
  rw [← h]
  exact works_tables rfl

theorem buildsOn_wrapSole (s : State) : BuildsOn s s.wrapSole := by
  simp only [BuildsOn, State.wrapSole, State.withStore, State.writeLive, State.writeNode]

/-- Everything `C_BUILD` can do (R137 to R139). -/
theorem execCBuild_next (h : execCBuild s = .next t) :
    raiseErr .construction s.placeLeaves = .next t ∨ t = s.placeLeaves.wrapSole.finishBuild ∨
      t = (mergeLoop s.placeLeaves.nodeCount s.placeLeaves).finishBuild := by
  simp only [execCBuild] at h
  split at h
  · exact .inl h
  · split at h
    · cases h
      exact .inr (.inl rfl)
    · cases h
      exact .inr (.inr rfl)

/-- What `C_BUILD` works on before it raises or goes on. -/
theorem execCBuild_buildsOn (h : execCBuild s = .next t) :
    ∃ u, BuildsOn s u ∧ (t = u.finishBuild ∨ raiseErr .construction u = .next t) := by
  have hplace := buildsOn_placeLeaves s
  obtain hraise | hsole | hmerge := execCBuild_next h
  · exact ⟨_, hplace, .inr hraise⟩
  · exact ⟨_, buildsOn_trans hplace (buildsOn_wrapSole _), .inl hsole⟩
  · exact ⟨_, buildsOn_trans hplace (buildsOn_mergeLoop _ _), .inl hmerge⟩

theorem ends_execCBuild {rewinds : Bool} (h : execCBuild s = .next t) : Ends rewinds [3] [.construction] s t := by
  obtain ⟨u, hbuild, rfl | hraise⟩ := execCBuild_buildsOn h
  · have hroot : Works rewinds u { u with root := u.nodeCount - 1 } := works_tables rfl
    exact ends_setPhase (works_trans (works_buildsOn hbuild) hroot) (List.mem_singleton_self _)
  · exact ends_raise (works_buildsOn hbuild) (List.mem_singleton_self _) hraise

theorem works_traverse {rewinds onPath : Bool} {atLeaf : Symbol → State → Result} {atInternal : State → Result}
    {fuel k : Nat} (hleaf : ∀ sym s t, atLeaf sym s = .next t → Works rewinds s t)
    (hint : ∀ s t, atInternal s = .next t → Works rewinds s t)
    (h : traverse onPath atLeaf atInternal fuel k s = .next t) : Works rewinds s t :=
  traverse_keeps (Works rewinds s) (fun _ _ _ _ _ hu => works_trans hu (works_tables rfl))
    (fun _ _ _ hu hv => works_trans hu (hleaf _ _ _ hv)) (fun _ _ hu hv => works_trans hu (hint _ _ hv)) h
    (works_refl _ s)

theorem works_bindCode {rewinds : Bool} {sym : Symbol} (h : bindCode sym s = .next t) : Works rewinds s t := by
  obtain ⟨-, rfl⟩ := bindCode_next h
  exact works_tables rfl

theorem works_emitLeaf {rewinds : Bool} {sym : Symbol} (h : emitLeaf sym s = .next t) : Works rewinds s t := by
  obtain ⟨u, hu, h⟩ := andThen_eq_next.mp h
  exact works_trans (works_outBits hu) (works_outBits h)

theorem ends_execCCodes {rewinds : Bool} (h : execCCodes s = .next t) : Ends rewinds [4] [] s t := by
  obtain ⟨u, hu, h⟩ := andThen_eq_next.mp h
  cases h
  have hvisit : Works rewinds _ u := works_traverse (fun _ _ _ => works_bindCode)
    (fun _ _ hnext => by cases hnext; exact works_refl _ _) hu
  exact ends_setPhase (works_trans (works_tables rfl) hvisit) (List.mem_singleton_self _)

theorem ends_execCHeader {rewinds : Bool} (h : execCHeader s = .next t) : Ends rewinds [6] [] s t := by
  obtain ⟨u, hu, h⟩ := andThen_eq_next.mp h
  cases h
  have hvisit : Works rewinds _ u := works_traverse (fun _ _ _ => works_emitLeaf) (fun _ _ => works_outBits) hu
  exact ends_setPhase (works_trans (works_tables rfl) hvisit) (List.mem_singleton_self _)

theorem ends_execCFreq (h : execCFreq s = .next t) : Ends true [2] [.countOverflow] s t := by
  obtain ⟨u, hu, h⟩ := andThen_eq_next.mp h
  exact ends_of_works (works_trans (works_tables rfl) (works_inRewind hu)) (ends_countLoop h)

theorem ends_execCPayload (h : execCPayload s = .next t) : Ends true [7] [.noCode] s t := by
  obtain ⟨u, hu, h⟩ := andThen_eq_next.mp h
  exact ends_of_works (works_inRewind hu) (ends_payloadLoop h)

/-- A phase that writes one field to OUT and goes on. -/
theorem ends_outBits {rewinds : Bool} {n v : Nat} {p : BitVec 4}
    (h : (andThen (outBits n v s) fun s => .next (s.setPhase p)) = .next t) : Ends rewinds [p] [] s t := by
  obtain ⟨u, hu, h⟩ := andThen_eq_next.mp h
  cases h
  exact ends_setPhase (works_outBits hu) (List.mem_singleton_self _)

theorem ends_execMagic {rewinds : Bool} {m : BitVec 32} (h : execMagic m s = .next t) :
    Ends rewinds [10] [.badMagic] s t := by
  unfold execMagic at h
  split at h
  · cases h
    exact ends_setPhase (works_refl _ s) (List.mem_singleton_self _)
  · exact ends_raise (works_refl _ s) (List.mem_singleton_self _) h

theorem ends_execDMagic {rewinds : Bool} (h : execDMagic s = .next t) : Ends rewinds [10] [.badMagic] s t := by
  obtain ⟨⟨v, u⟩, hu, h⟩ := andThen_eq_next.mp h
  obtain ⟨-, ⟨-, rfl, rfl⟩ | ⟨-, rfl, rfl⟩⟩ := inBits_next hu
  · exact ends_of_works (works_advance _ s 32) (ends_execMagic h)
  · exact ends_raise (works_afterEos _ s 32) (List.mem_singleton_self _) h

theorem ends_execNodeInternal {rewinds : Bool} (h : execNodeInternal s = .next t) :
    Ends rewinds [s.phase] headerErrors s t := by
  obtain ⟨⟨more, u⟩, hu, h⟩ := andThen_eq_next.mp h
  cases h
  obtain ⟨-, hwork⟩ | ⟨-, hends⟩ := internalToken_works (rewinds := rewinds) hu
  · exact ends_works hwork (List.mem_singleton_self _)
  · exact ends_mono hends (List.nil_subset _) (List.Subset.refl _)

theorem ends_execNodeLeaf {rewinds : Bool} {sym : Symbol} (h : execNodeLeaf sym s = .next t) :
    Ends rewinds [s.phase, 11] headerErrors s t := by
  obtain ⟨⟨more, u⟩, hu, h⟩ := andThen_eq_next.mp h
  cases h
  obtain ⟨-, hwork⟩ | ⟨-, hends⟩ := leafToken_works (rewinds := rewinds) hu
  · exact ends_works hwork List.mem_cons_self
  · exact ends_mono hends (List.subset_cons_self _ _) (List.Subset.refl _)

/-- Everything an instruction can end in. -/
theorem effect_exec (h : exec i s = .next t) : Effect i s t := by
  cases i with
  | compress => exact effect_startCommand (.inl ⟨rfl, rfl, rfl⟩) h
  | decompress => exact effect_startCommand (.inr ⟨rfl, rfl, rfl⟩) h
  | cFreq => exact .ends (ends_execCFreq h)
  | cBuild => exact .ends (ends_execCBuild h)
  | cCodes => exact .ends (ends_execCCodes h)
  | cMagic => exact .ends (ends_outBits h)
  | cHeader => exact .ends (ends_execCHeader h)
  | cPayload => exact .ends (ends_execCPayload h)
  | cTerm => exact .ends (ends_outBits h)
  | cClose => exact .closes (.inl rfl) h
  | dMagic => exact .ends (ends_execDMagic h)
  | dHeader => exact .ends (ends_of_works (works_tables rfl) (ends_headerLoop h))
  | dWalk => exact .ends (ends_of_works (works_tables rfl) (ends_walkLoop h))
  | dClose => exact .closes (.inr rfl) h
  | magic m => exact .ends (ends_execMagic h)
  | nodeInternal => exact .ends (ends_execNodeInternal h)
  | nodeLeaf sym => exact .ends (ends_execNodeLeaf h)
  | codeword c => exact .ends (ends_walkBits h)
  | terminator c => exact .ends (ends_walkBits h)
  | pad p =>
    cases h
    exact .ends (ends_works (works_refl _ _) (List.mem_singleton_self _))

/-! ## The laws -/

/-- No instruction raises "no error". -/
theorem none_notMem_errorsOf (i : Instr) : Err.none ∉ errorsOf i := by
  cases i <;> simp [errorsOf, headerErrors]

/-- A phase that does not end its command goes on to the next code (R24). -/
theorem phasesAfter_of_isPhase (s : State) (hi : isPhase i = true) {p : BitVec 4} (hp : p ∈ phasesAfter s i) :
    p = phaseCode i + 1 ∧ i ≠ .cClose ∧ i ≠ .dClose := by
  revert hi hp
  cases i <;> simp [isPhase, phaseCode, phasesAfter]

/-- The commands are no phases. -/
theorem not_command_of_isPhase (hi : isPhase i = true) : i ≠ .compress ∧ i ≠ .decompress := by
  constructor <;> rintro rfl <;> cases hi

/-- Settles O48: a phase works with the registers as they were, and then goes on, ends its command or raises. -/
theorem phaseFollowsTheSequence : Obligations.PhaseFollowsTheSequence := by
  intro i s t hi hphase hbusy hrun
  obtain ⟨hc, hd⟩ := not_command_of_isPhase hi
  cases effect_exec hrun with
  | accepts h => exact absurd (h.imp And.left And.left) (not_or.mpr ⟨hc, hd⟩)
  | ignored h => exact absurd h (not_or.mpr ⟨hc, hd⟩)
  | closes h hend =>
    obtain ⟨o, -, -, -, rfl⟩ := endCommand_next hend
    exact .inr (.inl ⟨rfl, rfl, rfl, h⟩)
  | ends h =>
    obtain ⟨u, hwork, ⟨p, hp, rfl⟩ | ⟨e, he, hraise⟩⟩ := h
    · obtain ⟨rfl, hopen⟩ := phasesAfter_of_isPhase s hi hp
      exact .inl ⟨hwork.runState.trans hbusy, hwork.err, by rw [hphase]; rfl, hopen⟩
    · obtain ⟨o, -, -, -, rfl⟩ := raiseErr_next hraise
      exact .inr (.inr ⟨rfl, ne_of_mem_of_not_mem he (none_notMem_errorsOf i), hwork.phase⟩)

/-- Settles O49: an accepted command clears `ERR`, a `raise` sets it, and nothing else writes it. -/
theorem errIsWrittenInTwoPlaces : Obligations.ErrIsWrittenInTwoPlaces := by
  intro i s t hrun hne
  cases effect_exec hrun with
  | accepts h => exact .inl ⟨rfl, rfl, h.imp And.left And.left⟩
  | ignored h => exact absurd rfl hne
  | closes h hend =>
    obtain ⟨o, -, -, -, rfl⟩ := endCommand_next hend
    exact absurd rfl hne
  | ends h =>
    obtain ⟨u, hwork, ⟨p, -, rfl⟩ | ⟨e, he, hraise⟩⟩ := h
    · exact absurd hwork.err hne
    · obtain ⟨o, -, -, -, rfl⟩ := raiseErr_next hraise
      exact .inr ⟨ne_of_mem_of_not_mem he (none_notMem_errorsOf i), rfl⟩

/-- Closing an output keeps its bits. -/
theorem outBits_of_close_isPrefix {o : OutStream} (ho : s.out = some o) :
    s.outBitsSoFar <+: State.outBitsSoFar { s with out := some { o with closed := true } } := by
  rw [State.outBitsSoFar, ho]
  exact List.prefix_rfl

/-- Settles O50: work appends to OUT, and its close keeps the bits. -/
theorem outputIsNeverRolledBack : Obligations.OutputIsNeverRolledBack := by
  intro i s t hrun
  cases effect_exec hrun with
  | accepts h => exact List.prefix_rfl
  | ignored h => exact List.prefix_rfl
  | closes h hend =>
    obtain ⟨o, ho, -, -, rfl⟩ := endCommand_next hend
    exact outBits_of_close_isPrefix ho
  | ends h =>
    obtain ⟨u, hwork, ⟨p, -, rfl⟩ | ⟨e, he, hraise⟩⟩ := h
    · exact hwork.out.bits
    · obtain ⟨o, ho, -, -, rfl⟩ := raiseErr_next hraise
      exact hwork.out.bits.trans (outBits_of_close_isPrefix ho)

/-- Settles O51: OUT is closed with the command, in success and in error alike, and work keeps it open. -/
theorem outputIsClosedExactlyAtTheEnd : Obligations.OutputIsClosedExactlyAtTheEnd := by
  intro i s t hi hbusy hrun
  obtain ⟨hc, hd⟩ := not_command_of_isPhase hi
  cases effect_exec hrun with
  | accepts h => exact absurd (h.imp And.left And.left) (not_or.mpr ⟨hc, hd⟩)
  | ignored h => exact absurd h (not_or.mpr ⟨hc, hd⟩)
  | closes h hend =>
    obtain ⟨o, -, -, -, rfl⟩ := endCommand_next hend
    exact ⟨fun _ => ⟨_, rfl, rfl⟩, nofun⟩
  | ends h =>
    obtain ⟨u, hwork, ⟨p, -, rfl⟩ | ⟨e, he, hraise⟩⟩ := h
    · exact ⟨fun hnot => absurd (hwork.runState.trans hbusy) hnot, fun _ => hwork.out.flags⟩
    · obtain ⟨o, -, -, -, rfl⟩ := raiseErr_next hraise
      exact ⟨fun _ => ⟨_, rfl, rfl⟩, nofun⟩

/-- DECOMPRESS has no instruction that rewinds (R209). -/
theorem rewindsInput_of_decompress
    (hi : i = .decompress ∨ i = .dMagic ∨ i = .dHeader ∨ i = .dWalk ∨ i = .dClose) : rewindsInput i = false := by
  rcases hi with rfl | rfl | rfl | rfl | rfl <;> rfl

/-- Whatever an instruction does, IN is read and no more, and what is not the core's stays. -/
theorem exec_keeps_environment (h : exec i s = .next t) :
    ReadsOn (rewindsInput i) s.inp t.inp ∧ t.host = s.host ∧ t.detachedIn = s.detachedIn ∧
      t.detachedOut = s.detachedOut := by
  cases effect_exec h with
  | accepts h => exact ⟨readsOn_refl _ _, rfl, rfl, rfl⟩
  | ignored h => exact ⟨readsOn_refl _ _, rfl, rfl, rfl⟩
  | closes h hend =>
    obtain ⟨o, -, -, -, rfl⟩ := endCommand_next hend
    exact ⟨readsOn_refl _ _, rfl, rfl, rfl⟩
  | ends h =>
    obtain ⟨u, hwork, ⟨p, -, rfl⟩ | ⟨e, -, hraise⟩⟩ := h
    · exact ⟨hwork.inp, hwork.host, hwork.detachedIn, hwork.detachedOut⟩
    · obtain ⟨o, -, -, -, rfl⟩ := raiseErr_next hraise
      exact ⟨hwork.inp, hwork.host, hwork.detachedIn, hwork.detachedOut⟩

/-- Settles O52: the reads of an instruction keep the stream, and only `C_FREQ` and `C_PAYLOAD` rewind it. -/
theorem inputIsOnlyRead : Obligations.InputIsOnlyRead := by
  intro i s t hrun
  obtain ⟨hread, hhost, hin, hout⟩ := exec_keeps_environment hrun
  refine ⟨hread.same, hhost, hin, hout, fun hi j hj => ?_⟩
  obtain ⟨k, new, hk, hlog, hnew⟩ := hread.log j hj
  exact ⟨k, new, hk, hlog, fun hmem => Bool.false_ne_true ((rewindsInput_of_decompress hi).symm.trans (hnew hmem))⟩

end Sys2Proof.Machine
end

section
/-! What a step can do, said once (R16, R24, R73, R231, R260 to R264), and the agreement of the control registers that every
step keeps (R22 to R24, R220, R221). -/

namespace Sys2Proof.Machine

/-! ## The step -/

/-- What a step can do, the host's schedule being any after it: the running phase, a command, the report of an illegal
command, a reset, or a host event that the core's registers and tables do not see. -/
inductive StepDoes (s : State) : State → Prop
  | phase {i : Instr} {h : List HostEvent} {t : State} : s.runState = .busy → isPhase i = true →
      s.phase = phaseCode i → exec i { s with host := h } = .next t → StepDoes s t
  | command {i : Instr} {h : List HostEvent} {t : State} : i = .compress ∨ i = .decompress →
      exec i { s with host := h } = .next t → StepDoes s t
  | badCommand {h : List HostEvent} {c : Byte} : c ≠ 1 → c ≠ 2 →
      StepDoes s (State.badCommand { s with host := h } c)
  | reset {ins : List InStream} {outs : List OutStream} {h : List HostEvent} {n : Nat} :
      StepDoes s { State.reset with detachedIn := ins, detachedOut := outs, host := h, draws := n }
  | hostEvent {inp : Option InStream} {out : Option OutStream} {h : List HostEvent} :
      StepDoes s { s with host := h, inp := inp, out := out }

/-- What is fetched is run (R24, R77). -/
def perform : Fetched → Result
  | .instr i t => exec i t
  | .cut k i t => .next (t.abandon k (exec i t))
  | .settled o => o

theorem step_eq_perform (s : State) : step s = perform (fetch s) := rfl

variable {s t : State} {h : List HostEvent}

/-- The codes that name a phase (R24). -/
theorem decodePhase_ok {p : BitVec 4} {i : Instr} (hp : decodePhase p = .ok i) :
    isPhase i = true ∧ p = phaseCode i := by
  unfold decodePhase at hp
  split at hp <;> cases hp <;> exact ⟨rfl, BitVec.eq_of_toNat_eq ‹_›⟩

/-- The bytes that name a command (R92, R93). -/
theorem decodeCmd_ok {c : Byte} {i : Instr} (hc : decodeCmd c = .ok i) : i = .compress ∨ i = .decompress := by
  unfold decodeCmd at hc
  split at hc <;> cases hc
  · exact .inl rfl
  · exact .inr rfl

/-- The other bytes (R94). -/
theorem decodeCmd_error {c : Byte} {e : DecodeError} (hc : decodeCmd c = .error e) : c ≠ 1 ∧ c ≠ 2 := by
  constructor <;> rintro rfl <;> cases hc

theorem does_fetchCore (hrun : perform (fetchCore { s with host := h }) = .next t) : StepDoes s t := by
  unfold fetchCore at hrun
  split at hrun
  · rename_i hbusy
    split at hrun
    · rename_i i hi
      obtain ⟨hphase, hcode⟩ := decodePhase_ok hi
      exact .phase hbusy hphase hcode hrun
    · cases hrun
  · cases hrun
    exact .hostEvent

theorem does_fetchWrite {off : Nat} {v : Byte} (hrun : perform (fetchWrite off v { s with host := h }) = .next t) :
    StepDoes s t := by
  unfold fetchWrite at hrun
  split at hrun
  · split at hrun
    · rename_i i hi
      exact .command (decodeCmd_ok hi) hrun
    · rename_i e he
      obtain ⟨h₁, h₂⟩ := decodeCmd_error he
      split at hrun <;> cases hrun
      · exact .hostEvent
      · exact .badCommand h₁ h₂
  · cases hrun
    exact .hostEvent
  · cases hrun
    exact .hostEvent
  · cases hrun

theorem does_fetchRead {off : Nat} (hrun : perform (fetchRead off { s with host := h }) = .next t) : StepDoes s t := by
  unfold fetchRead at hrun
  split at hrun <;> cases hrun
  exact .hostEvent

theorem does_fetchAttach {d : Bits} {p : Nat} {r : Bool}
    (hrun : perform (fetchAttach d p r { s with host := h }) = .next t) : StepDoes s t := by
  unfold fetchAttach at hrun
  split at hrun <;> cases hrun
  exact .hostEvent

theorem does_fetchResetDuring {k : Nat} (hrun : perform (fetchResetDuring k { s with host := h }) = .next t) :
    StepDoes s t := by
  unfold fetchResetDuring at hrun
  split at hrun <;> cases hrun
  · obtain ⟨ins, outs, n, habandon⟩ := abandon_core _ k _
    rw [habandon]
    exact .reset
  · exact .reset
  · exact .reset

/-- Everything a step can do. -/
theorem step_does (hstep : step s = .next t) : StepDoes s t := by
  rw [step_eq_perform] at hstep
  unfold fetch at hstep
  split at hstep
  · exact does_fetchCore (h := s.host) hstep
  · exact does_fetchCore hstep
  · exact does_fetchAttach hstep
  · cases hstep
    exact .hostEvent
  · exact does_fetchWrite hstep
  · exact does_fetchRead hstep
  · cases hstep
    exact .reset
  · exact does_fetchResetDuring hstep

/-! ## The control registers -/

/-- The command that a phase belongs to (R24). -/
def commandOf : Instr → Byte
  | .cFreq | .cBuild | .cCodes | .cMagic | .cHeader | .cPayload | .cTerm | .cClose => 1
  | .dMagic | .dHeader | .dWalk | .dClose => 2
  | .compress | .decompress => 0
  | .magic _ | .nodeInternal | .nodeLeaf _ | .codeword _ | .terminator _ | .pad _ => 0

/-- The command and the phase of a running core belong together (R24). -/
theorem command_of_controlOk {i : Instr} (hok : s.ControlOk) (hbusy : s.runState = .busy) (hi : isPhase i = true)
    (hphase : s.phase = phaseCode i) : s.err = .none ∧ s.cmd = commandOf i := by
  simp only [State.ControlOk, hbusy, hphase] at hok
  obtain ⟨herr, hcmd⟩ := hok
  refine ⟨herr, ?_⟩
  revert hi hcmd
  cases i <;> simp [isPhase, phaseCode, commandOf]

/-- A phase that does not end its command is followed by one of the same command (R24). -/
theorem next_phase_range {i : Instr} {p : BitVec 4} (hi : isPhase i = true) (hp : p ∈ phasesAfter s i) :
    (commandOf i = 1 ∧ 1 ≤ p.toNat ∧ p.toNat ≤ 8) ∨ (commandOf i = 2 ∧ 9 ≤ p.toNat ∧ p.toNat ≤ 12) := by
  revert hi hp
  cases i <;> simp +contextual [isPhase, phaseCode, phasesAfter, commandOf]

/-- An error records the phase that raises it and its command (R221). -/
theorem place_of_mem_errorsOf {i : Instr} (hi : isPhase i = true) :
    ∀ e ∈ errorsOf i, e ≠ .none ∧ e ≠ .badCmd ∧ e.place = (phaseCode i, commandOf i) := by
  revert hi
  cases i <;> simp [isPhase, phaseCode, errorsOf, headerErrors, commandOf, Err.place]

/-- The end of a command in success (R186, R206). -/
theorem controlOk_endCommand (herr : s.err = .none) (hcmd : s.cmd = 1 ∨ s.cmd = 2) (hend : endCommand s = .next t) :
    t.ControlOk := by
  obtain ⟨o, -, -, -, rfl⟩ := endCommand_next hend
  exact ⟨herr, rfl, hcmd⟩

/-- A phase of a command whose registers agree (R24, R221). -/
theorem controlOk_phase {i : Instr} (hok : s.ControlOk) (hbusy : s.runState = .busy) (hi : isPhase i = true)
    (hphase : s.phase = phaseCode i) (hrun : exec i s = .next t) : t.ControlOk := by
  obtain ⟨herr, hcmd⟩ := command_of_controlOk hok hbusy hi hphase
  obtain ⟨hc, hd⟩ := not_command_of_isPhase hi
  cases effect_exec hrun with
  | accepts h => exact absurd (h.imp And.left And.left) (not_or.mpr ⟨hc, hd⟩)
  | ignored h => exact absurd h (not_or.mpr ⟨hc, hd⟩)
  | closes h hend =>
    refine controlOk_endCommand herr ?_ hend
    rcases h with rfl | rfl
    · exact .inl hcmd
    · exact .inr hcmd
  | ends h =>
    obtain ⟨u, hwork, ⟨p, hp, rfl⟩ | ⟨e, he, hraise⟩⟩ := h
    · have hrange := next_phase_range hi hp
      simp only [State.ControlOk, setPhase_runState, hwork.runState, hbusy]
      rw [← hcmd, ← hwork.cmd] at hrange
      exact ⟨hwork.err.trans herr, hrange⟩
    · obtain ⟨o, -, -, -, rfl⟩ := raiseErr_next hraise
      obtain ⟨hnone, hbad, hplace⟩ := place_of_mem_errorsOf hi e he
      refine ⟨hnone, ?_⟩
      simp only [if_neg hbad, hplace, hwork.phase, hwork.cmd, hphase, hcmd]

/-- A command that is written (R180, R200). -/
theorem controlOk_command {i : Instr} (hok : s.ControlOk) (hi : i = .compress ∨ i = .decompress)
    (hrun : exec i s = .next t) : t.ControlOk := by
  have hnotClose : ¬ (i = .cClose ∨ i = .dClose) := by
    rcases hi with rfl | rfl <;> simp
  cases effect_exec hrun with
  | accepts h =>
    obtain ⟨-, rfl, rfl⟩ | ⟨-, rfl, rfl⟩ := h
    · exact ⟨rfl, .inl ⟨rfl, show 1 ≤ (1 : BitVec 4).toNat by decide, show (1 : BitVec 4).toNat ≤ 8 by decide⟩⟩
    · exact ⟨rfl, .inr ⟨rfl, show 9 ≤ (9 : BitVec 4).toNat by decide, show (9 : BitVec 4).toNat ≤ 12 by decide⟩⟩
  | ignored h => exact hok
  | closes h hend => exact absurd h hnotClose
  | ends h =>
    obtain ⟨u, -, ⟨p, hp, -⟩ | ⟨e, he, -⟩⟩ := h
    · rcases hi with rfl | rfl <;> cases hp
    · rcases hi with rfl | rfl <;> cases he

/-- Settles O54: each phase keeps the registers of its command in agreement, and so do the writes of `CMD` and the
resets. -/
theorem stepKeepsControl : Obligations.StepKeepsControl := by
  intro s t hok hstep
  cases step_does hstep with
  | @phase i h _ hbusy hi hphase hrun => exact controlOk_phase (s := { s with host := h }) hok hbusy hi hphase hrun
  | @command i h _ hi hrun => exact controlOk_command (s := { s with host := h }) hok hi hrun
  | badCommand h₁ h₂ => exact ⟨nofun, rfl, h₁, h₂⟩
  | reset => exact ⟨rfl, rfl, rfl⟩
  | hostEvent => exact hok

end Sys2Proof.Machine
end

section
/-! Which of the core's registers and tables an instruction writes (R25 to R30). -/

namespace Sys2Proof.Machine

/-! ## The parts of the core -/

/-- The working registers and tables, grouped by the phases that write them (R25 to R30). -/
inductive Part where
  | counts
  | live
  | codes
  | store
  | stack
  | cursor

/-- What a part is a value of. -/
def Part.Content : Part → Type
  | .counts => Vector Nat 257 × Nat
  | .live => Vector Bool 513
  | .codes => Vector CodeEntry 257 × Nat × Nat
  | .store => Vector Node 513 × Nat × Nat
  | .stack => Vector StkEntry 257 × Nat
  | .cursor => Nat

/-- What a part holds. -/
def State.part (s : State) : (g : Part) → g.Content
  | .counts => (s.freq, s.nIn)
  | .live => s.live
  | .codes => (s.code, s.path, s.plen)
  | .store => (s.nodes, s.nodeCount, s.root)
  | .stack => (s.stk, s.sp)
  | .cursor => s.cur

/-- The state with one part as in `u`. -/
def State.withPart (u s : State) : Part → State
  | .counts => { s with freq := u.freq, nIn := u.nIn }
  | .live => { s with live := u.live }
  | .codes => { s with code := u.code, path := u.path, plen := u.plen }
  | .store => { s with nodes := u.nodes, nodeCount := u.nodeCount, root := u.root }
  | .stack => { s with stk := u.stk, sp := u.sp }
  | .cursor => { s with cur := u.cur }

/-- The state with the control registers and the ports as in `u`. -/
def State.withControl (s u : State) : State :=
  { s with
    cmd := u.cmd, runState := u.runState, phase := u.phase, err := u.err, inp := u.inp, out := u.out
    draws := u.draws }

/-- The state with some parts, the control registers and the ports as in `u`. -/
def State.withParts (s u : State) (l : List Part) : State := l.foldl u.withPart (s.withControl u)

theorem part_withPart {g k : Part} (u s : State) (h : g ≠ k) : (u.withPart s k).part g = s.part g := by
  cases k <;> cases g <;> trivial

/-- From `s` to `t` no part but those in `l` has changed. -/
def Keeps (l : List Part) (s t : State) : Prop := ∀ g, g ∉ l → t.part g = s.part g

variable {l m : List Part} {s t u : State}

theorem keeps_refl (l : List Part) (s : State) : Keeps l s s := fun _ _ => rfl

theorem keeps_trans (hst : Keeps l s t) (htu : Keeps l t u) : Keeps l s u := fun g hg => (htu g hg).trans (hst g hg)

theorem keeps_mono (hlm : l ⊆ m) (h : Keeps l s t) : Keeps m s t := fun g hg => h g fun hl => hg (hlm hl)

theorem part_foldl_withPart {g : Part} (u v : State) (hg : g ∉ l) : (l.foldl u.withPart v).part g = v.part g := by
  induction l generalizing v with
  | nil => rfl
  | cons k l ih =>
    obtain ⟨hk, hl⟩ := not_or.mp (mt List.mem_cons.mpr hg)
    rw [List.foldl_cons, ih _ hl, part_withPart u v hk]

/-- A write to the parts in `l`, the control registers and the ports. -/
theorem keeps_withParts (h : s.withParts u l = u) : Keeps l s u := by
  intro g hg
  calc u.part g = (s.withParts u l).part g := by rw [h]
    _ = (s.withControl u).part g := part_foldl_withPart u _ hg
    _ = s.part g := by cases g <;> rfl

/-! ## The shared operations -/

/-- A write to the control registers and the ports changes no part. -/
theorem keeps_control (h : s.withControl u = u) : Keeps l s u :=
  keeps_mono (List.nil_subset l) (keeps_withParts (l := []) h)

theorem keeps_raise {e : Err} (h : raiseErr e s = .next t) : Keeps l s t := by
  obtain ⟨o, -, -, -, rfl⟩ := raiseErr_next h
  exact keeps_control rfl

theorem keeps_outBits {n v : Nat} (h : outBits n v s = .next t) : Keeps l s t := by
  obtain ⟨o, -, -, -, rfl⟩ := outBits_next h
  exact keeps_control rfl

theorem keeps_inRewind (h : inRewind s = .next t) : Keeps l s t := by
  obtain ⟨i, -, -, rfl⟩ := inRewind_next h
  exact keeps_control rfl

theorem keeps_inBits {n : Nat} {v : Option Nat} (h : inBits n s = .next (v, t)) : Keeps l s t := by
  obtain ⟨-, ⟨-, -, rfl⟩ | ⟨-, -, rfl⟩⟩ := inBits_next h <;> exact keeps_control rfl

theorem keeps_endCommand (h : endCommand s = .next t) : Keeps l s t := by
  obtain ⟨o, -, -, -, rfl⟩ := endCommand_next h
  exact keeps_control rfl

theorem keeps_startCommand {c : Byte} {p : BitVec 4} (h : startCommand c p s = .next t) : Keeps l s t := by
  obtain ⟨-, rfl⟩ | ⟨-, rfl⟩ := startCommand_next h
  · exact keeps_refl l _
  · exact keeps_control rfl

/-- One field written to OUT, and the next phase. -/
theorem keeps_outBits_setPhase {n v : Nat} {p : BitVec 4}
    (h : (andThen (outBits n v s) fun s => .next (s.setPhase p)) = .next t) : Keeps l s t := by
  obtain ⟨u, hu, h⟩ := andThen_eq_next.mp h
  cases h
  exact keeps_trans (keeps_outBits hu) (keeps_control rfl)

/-! ## The phases -/

theorem keeps_countLoop {maxIn fuel : Nat} (h : countLoop maxIn fuel s = .next t) : Keeps [.counts] s t := by
  obtain ⟨freq, nIn, inp, draws, rfl | hraise⟩ := countLoop_next h
  · exact keeps_withParts rfl
  · exact keeps_trans (keeps_withParts rfl) (keeps_raise hraise)

theorem keeps_execCFreq (h : execCFreq s = .next t) : Keeps [.counts] s t := by
  obtain ⟨u, hu, h⟩ := andThen_eq_next.mp h
  exact keeps_trans (keeps_trans (keeps_withParts rfl) (keeps_inRewind hu)) (keeps_countLoop h)

theorem keeps_buildsOn (h : BuildsOn s u) : Keeps [.live, .store] s u := by
  rw [← h]
  exact keeps_withParts rfl

theorem keeps_execCBuild (h : execCBuild s = .next t) : Keeps [.live, .store] s t := by
  obtain ⟨u, hbuild, rfl | hraise⟩ := execCBuild_buildsOn h
  · exact keeps_trans (keeps_buildsOn hbuild) (keeps_withParts rfl)
  · exact keeps_trans (keeps_buildsOn hbuild) (keeps_raise hraise)

theorem keeps_bindCode {sym : Symbol} (h : bindCode sym s = .next t) : Keeps [.codes, .stack] s t := by
  obtain ⟨-, rfl⟩ := bindCode_next h
  exact keeps_withParts rfl

theorem keeps_execCCodes (h : execCCodes s = .next t) : Keeps [.codes, .stack] s t := by
  obtain ⟨u, hu, h⟩ := andThen_eq_next.mp h
  cases h
  refine keeps_trans ?_ (keeps_control rfl)
  exact traverse_keeps (Keeps [.codes, .stack] s) (fun _ _ _ _ _ hv => keeps_trans hv (keeps_withParts rfl))
    (fun _ _ _ hv hw => keeps_trans hv (keeps_bindCode hw)) (fun _ _ hv hw => by cases hw; exact hv) hu
    (keeps_withParts rfl)

theorem keeps_execCPayload (h : execCPayload s = .next t) : Keeps l s t := by
  obtain ⟨u, hu, h⟩ := andThen_eq_next.mp h
  exact payloadLoop_keeps (Keeps l s) (fun _ _ _ hv => keeps_trans hv (keeps_control rfl))
    (fun _ hv => keeps_trans hv (keeps_control rfl)) (fun _ _ hv hw => keeps_trans hv (keeps_raise hw))
    (fun _ _ _ _ hv hw => keeps_trans hv (keeps_outBits hw)) h (keeps_inRewind hu)

theorem keeps_execMagic {m : BitVec 32} (h : execMagic m s = .next t) : Keeps l s t := by
  unfold execMagic at h
  split at h
  · cases h
    exact keeps_control rfl
  · exact keeps_raise h

theorem keeps_execDMagic (h : execDMagic s = .next t) : Keeps l s t := by
  obtain ⟨⟨v, u⟩, hu, h⟩ := andThen_eq_next.mp h
  refine keeps_trans (keeps_inBits hu) ?_
  cases v with
  | none => exact keeps_raise h
  | some v => exact keeps_execMagic h

theorem keeps_walkBit {b more : Bool} (h : walkBit b s = .next (more, t)) : Keeps [.cursor] s t := by
  obtain ⟨-, cur, rfl⟩ | ⟨-, cur, rfl⟩ | ⟨-, cur, v, u, hu, rfl⟩ := walkBit_next h
  · exact keeps_withParts rfl
  · exact keeps_withParts rfl
  · exact keeps_trans (keeps_trans (keeps_withParts rfl) (keeps_outBits hu)) (keeps_withParts rfl)

theorem keeps_execDWalk (h : execDWalk s = .next t) : Keeps [.cursor] s t :=
  walkLoop_keeps (Keeps [.cursor] s) (fun _ _ _ hv => keeps_trans hv (keeps_control rfl))
    (fun _ _ hv hw => keeps_trans hv (keeps_raise hw)) (fun _ _ _ _ hv hw => keeps_trans hv (keeps_walkBit hw)) h
    (keeps_withParts rfl)

theorem keeps_walkBits {c : Bits} (h : walkBits c s = .next t) : Keeps [.cursor] s t := by
  induction c generalizing s with
  | nil =>
    cases h
    exact keeps_refl _ _
  | cons b c ih =>
    obtain ⟨⟨more, u⟩, hu, h⟩ := andThen_eq_next.mp h
    refine keeps_trans (keeps_walkBit hu) ?_
    cases more with
    | false =>
      cases h
      exact keeps_refl _ _
    | true => exact ih h

theorem keeps_pushInternal (s : State) : Keeps [.store, .stack] s s.pushInternal := by
  refine keeps_withParts ?_
  unfold State.pushInternal State.pushStk
  split <;> rfl

theorem keeps_internalToken {more : Bool} (h : internalToken s = .next (more, t)) : Keeps [.store, .stack] s t := by
  obtain ⟨-, -, hraise⟩ | ⟨-, -, rfl⟩ := internalToken_next h
  · exact keeps_raise hraise
  · exact keeps_pushInternal s

theorem keeps_finishHeader {root : Nat} (h : finishHeader root s = .next t) : Keeps [.store, .stack] s t := by
  unfold finishHeader at h
  split at h
  · cases h
  · simp only at h
    split at h
    · exact keeps_trans (keeps_withParts rfl) (keeps_raise h)
    · cases h
      exact keeps_withParts rfl

theorem keeps_leafToken {sym : Symbol} {more : Bool} (h : leafToken sym s = .next (more, t)) :
    Keeps [.store, .stack] s t := by
  unfold leafToken at h
  split at h
  · exact keeps_raise (raiseRound_next h).2
  · split at h
    · exact keeps_trans (keeps_withParts rfl) (keeps_raise (raiseRound_next h).2)
    · obtain ⟨⟨done, u⟩, hu, h⟩ := andThen_eq_next.mp h
      obtain ⟨nodes, stk, sp, rfl⟩ := closeSubtrees_next hu
      cases done with
      | none =>
        cases h
        exact keeps_withParts rfl
      | some root =>
        obtain ⟨v, hv, h⟩ := andThen_eq_next.mp h
        cases h
        exact keeps_trans (keeps_withParts rfl) (keeps_finishHeader hv)

theorem keeps_execDHeader (h : execDHeader s = .next t) : Keeps [.store, .stack] s t :=
  headerLoop_keeps (Keeps [.store, .stack] s) (fun _ _ _ hv => keeps_trans hv (keeps_control rfl))
    (fun _ _ _ hv hw => keeps_trans hv (keeps_raise hw)) (fun _ hv => keeps_trans hv (keeps_withParts rfl))
    (fun _ _ _ hv hw => keeps_trans hv (keeps_internalToken hw))
    (fun _ _ _ _ hv hw => keeps_trans hv (keeps_leafToken hw)) h (keeps_withParts rfl)

/-! ## The traversal that leaves the path registers alone -/

/-- One round of a traversal that answers. At a leaf the visit is followed by the unwinding of the stack, after which the
traversal is over or goes on at a right child; at an internal node it goes on at the left child. -/
theorem traverse_succ_next {onPath : Bool} {atLeaf : Symbol → State → Result} {atInternal : State → Result}
    {fuel i : Nat} (h : traverse onPath atLeaf atInternal (fuel + 1) i s = .next t) :
    (∃ sym u next v, atLeaf sym s = .next u ∧ unwind onPath u.sp u = .next (next, v) ∧
        (next.elim (.next v) fun j => traverse onPath atLeaf atInternal fuel j v) = .next t) ∨
      ∃ u j, atInternal s = .next u ∧ u.sp < 257 ∧
        traverse onPath atLeaf atInternal fuel j
          ((u.goDown onPath).withStk (u.stk.setIfInBounds u.sp ⟨i, false⟩) (u.sp + 1)) = .next t := by
  simp only [traverse] at h
  split at h
  · cases h
  · rename_i nd _
    split at h
    · obtain ⟨u, hu, h⟩ := andThen_eq_next.mp h
      obtain ⟨⟨next, v⟩, hv, h⟩ := andThen_eq_next.mp h
      exact .inl ⟨_, u, next, v, hu, hv, by cases next <;> exact h⟩
    · obtain ⟨u, hu, h⟩ := andThen_eq_next.mp h
      cases hp : u.pushStk i with
      | none => simp [hp] at h
      | some v =>
        simp only [hp] at h
        obtain ⟨hroom, rfl⟩ := pushStk_some hp
        refine .inr ⟨u, nd.left, hu, hroom, ?_⟩
        cases onPath <;> exact h

/-- Whatever both visits keep, and does not speak of the stack, a traversal keeps that does not follow the path. -/
theorem traverse_false_keeps {atLeaf : Symbol → State → Result} {atInternal : State → Result} (P : State → Prop)
    (hstk : ∀ s stk sp, P s → P (s.withStk stk sp)) (hleaf : ∀ sym s t, P s → atLeaf sym s = .next t → P t)
    (hint : ∀ s t, P s → atInternal s = .next t → P t) {fuel i : Nat}
    (h : traverse false atLeaf atInternal fuel i s = .next t) (hs : P s) : P t := by
  induction fuel generalizing i s with
  | zero => cases h
  | succ fuel ih =>
    obtain ⟨sym, u, next, v, hu, hv, h⟩ | ⟨u, j, hu, -, h⟩ := traverse_succ_next h
    · obtain ⟨stk, sp, path, plen, rfl, hpath⟩ := unwind_next hv
      obtain ⟨rfl, rfl⟩ := hpath rfl
      have hPv := hstk u stk sp (hleaf _ _ _ hs hu)
      cases next with
      | none =>
        cases h
        exact hPv
      | some j => exact ih h hPv
    · exact ih h (hstk u _ _ (hint _ _ hs hu))

theorem keeps_emitLeaf {sym : Symbol} (h : emitLeaf sym s = .next t) : Keeps l s t := by
  obtain ⟨u, hu, h⟩ := andThen_eq_next.mp h
  exact keeps_trans (keeps_outBits hu) (keeps_outBits h)

theorem keeps_execCHeader (h : execCHeader s = .next t) : Keeps [.stack] s t := by
  obtain ⟨u, hu, h⟩ := andThen_eq_next.mp h
  cases h
  refine keeps_trans ?_ (keeps_control rfl)
  exact traverse_false_keeps (Keeps [.stack] s) (fun _ _ _ hv => keeps_trans hv (keeps_withParts rfl))
    (fun _ _ _ hv hw => keeps_trans hv (keeps_emitLeaf hw)) (fun _ _ hv hw => keeps_trans hv (keeps_outBits hw)) hu
    (keeps_withParts rfl)

/-! ## Every instruction -/

/-- The parts that an instruction writes; the tokens are part of the phases that read them (R25 to R30). -/
def writtenParts : Instr → List Part
  | .cFreq => [.counts]
  | .cBuild => [.live, .store]
  | .cCodes => [.codes, .stack]
  | .cHeader => [.stack]
  | .dHeader | .nodeInternal | .nodeLeaf _ => [.store, .stack]
  | .dWalk | .codeword _ | .terminator _ => [.cursor]
  | .compress | .decompress | .cMagic | .cPayload | .cTerm | .cClose | .dMagic | .dClose | .magic _ | .pad _ => []

/-- No instruction changes a part that is not among those it writes. -/
theorem keeps_exec {i : Instr} (h : exec i s = .next t) : Keeps (writtenParts i) s t := by
  cases i with
  | compress => exact keeps_startCommand h
  | decompress => exact keeps_startCommand h
  | cFreq => exact keeps_execCFreq h
  | cBuild => exact keeps_execCBuild h
  | cCodes => exact keeps_execCCodes h
  | cMagic => exact keeps_outBits_setPhase h
  | cHeader => exact keeps_execCHeader h
  | cPayload => exact keeps_execCPayload h
  | cTerm => exact keeps_outBits_setPhase h
  | cClose => exact keeps_endCommand h
  | dMagic => exact keeps_execDMagic h
  | dHeader => exact keeps_execDHeader h
  | dWalk => exact keeps_execDWalk h
  | dClose => exact keeps_endCommand h
  | magic m => exact keeps_execMagic h
  | nodeInternal =>
    obtain ⟨⟨more, u⟩, hu, h⟩ := andThen_eq_next.mp h
    cases h
    exact keeps_internalToken hu
  | nodeLeaf sym =>
    obtain ⟨⟨more, u⟩, hu, h⟩ := andThen_eq_next.mp h
    cases h
    exact keeps_leafToken hu
  | codeword c => exact keeps_walkBits h
  | terminator c => exact keeps_walkBits h
  | pad p =>
    cases h
    exact keeps_refl _ _

/-- Settles O47: each conjunct is about one part, and the instructions that it names are those that write it. -/
theorem onlyTheNamedPhasesWrite : Obligations.OnlyTheNamedPhasesWrite := by
  intro i s t hrun
  have hkeeps := keeps_exec hrun
  refine ⟨fun hi => ?_, fun hi => ?_, fun hi => ?_, fun h₁ h₂ h₃ h₄ => ?_, fun h₁ h₂ h₃ h₄ h₅ => ?_, fun h₁ h₂ h₃ => ?_⟩
  · have hcounts := hkeeps .counts (by cases i <;> simp_all [writtenParts])
    exact Prod.mk.inj hcounts
  · exact hkeeps .live (by cases i <;> simp_all [writtenParts])
  · have hcodes := hkeeps .codes (by cases i <;> simp_all [writtenParts])
    obtain ⟨hcode, hpath⟩ := Prod.mk.inj hcodes
    exact ⟨hcode, Prod.mk.inj hpath⟩
  · have hstore := hkeeps .store (by cases i <;> simp_all [writtenParts])
    obtain ⟨hnodes, hindex⟩ := Prod.mk.inj hstore
    exact ⟨hnodes, Prod.mk.inj hindex⟩
  · have hstack := hkeeps .stack (by cases i <;> simp_all [writtenParts])
    exact Prod.mk.inj hstack
  · exact hkeeps .cursor (by cases i <;> simp_all [writtenParts])

end Sys2Proof.Machine
end

section
/-! How deep a traversal goes (R25, R30, R155): the path registers follow the stack, and 513 rounds leave no room for a leaf
below 256 internal nodes, whatever the store holds. -/

namespace Sys2Proof.Machine

/-! ## Entries of a table -/

/-- What holds of every entry and of a new one holds of every entry after the write. -/
theorem forall_mem_setIfInBounds {α : Type} {n i : Nat} {v : Vector α n} {x : α} {p : α → Prop}
    (hv : ∀ y ∈ v.toList, p y) (hx : p x) : ∀ y ∈ (v.setIfInBounds i x).toList, p y := by
  intro y hy
  rw [Vector.toList_setIfInBounds] at hy
  obtain hy | rfl := List.mem_or_eq_of_mem_set hy
  · exact hv y hy
  · exact hx

theorem forall_mem_replicate {α : Type} {n : Nat} {x : α} {p : α → Prop} (hx : p x) :
    ∀ y ∈ (Vector.replicate n x).toList, p y := by
  intro y hy
  rw [Vector.toList_replicate] at hy
  rwa [List.eq_of_mem_replicate hy]

/-! ## The unwinding of the stack -/

variable {s t u : State} {onPath : Bool} {next : Option Nat}

/-- Unwinding ends with the stack empty and no left subtree to be finished on it, or at a right child with one fewer. -/
theorem unwind_openLefts {n : Nat} (h : unwind onPath n s = .next (next, t)) :
    (next = none ∧ t.sp = 0 ∧ openLefts s.stk n = 0) ∨
      ∃ j, next = some j ∧ t.sp ≤ n ∧ openLefts t.stk t.sp + 1 = openLefts s.stk n := by
  induction n generalizing s with
  | zero =>
    cases h
    exact .inl ⟨rfl, rfl, rfl⟩
  | succ n ih =>
    simp only [unwind] at h
    split at h
    · cases h
    · rename_i e he
      have hn : n < 257 := (Vector.getElem?_eq_some_iff.mp he).1
      have hopen : openLefts s.stk (n + 1) = openLefts s.stk n + if e.leftDone then 0 else 1 := by
        rw [openLefts, he]
        rfl
      split at h
      · rename_i hdone
        have hstk : (if onPath then s.pathUp else s).stk = s.stk := by cases onPath <;> rfl
        rw [hopen, if_pos hdone, Nat.add_zero, ← hstk]
        obtain hend | ⟨j, hj, hsp, hleft⟩ := ih h
        · exact .inl hend
        · exact .inr ⟨j, hj, by omega, hleft⟩
      · rename_i hdone
        split at h
        · cases h
        · cases h
          refine .inr ⟨_, rfl, le_rfl, ?_⟩
          rw [hopen, if_neg hdone]
          exact congrArg (· + 1) (openLefts_succ_setIfInBounds hn)

/-- The turns on the way to the node on top of `n` stack entries: 1 where the right subtree is being visited. -/
def turns (stk : Vector StkEntry 257) (n : Nat) : Bits := (stk.toList.take n).map StkEntry.leftDone

theorem turns_succ {stk : Vector StkEntry 257} {n : Nat} {e : StkEntry} (he : stk[n]? = some e) :
    turns stk (n + 1) = turns stk n ++ [e.leftDone] := by
  have hn : stk.toList[n]? = some e := by rw [Vector.getElem?_toList, he]
  rw [turns, List.take_add_one, hn, List.map_append]
  rfl

theorem turns_setIfInBounds {stk : Vector StkEntry 257} {n k : Nat} {e : StkEntry} (hk : n ≤ k) :
    turns (stk.setIfInBounds k e) n = turns stk n := by
  rw [turns, Vector.toList_setIfInBounds, List.take_set_of_le hk, turns]

/-- The turns after a write on top of the first `n` entries. -/
theorem turns_succ_setIfInBounds {stk : Vector StkEntry 257} {n : Nat} {e : StkEntry} (hn : n < 257) :
    turns (stk.setIfInBounds n e) (n + 1) = turns stk n ++ [e.leftDone] := by
  rw [turns_succ (Vector.getElem?_setIfInBounds_self_of_lt hn), turns_setIfInBounds le_rfl]

theorem turns_length {stk : Vector StkEntry 257} {n : Nat} (hn : n ≤ 257) : (turns stk n).length = n := by
  rw [turns, List.length_map, List.length_take_of_le (by simpa using hn)]

/-- `PATH` and `PLEN` hold the turns of the first `n` stack entries (R25). -/
structure State.OnTurns (s : State) (n : Nat) : Prop where
  path : s.path = value (turns s.stk n)
  plen : s.plen = n

theorem onTurns_unwind {n : Nat} (hs : s.OnTurns n) (h : unwind true n s = .next (next, t)) : t.OnTurns t.sp := by
  induction n generalizing s with
  | zero =>
    cases h
    exact ⟨hs.path, hs.plen⟩
  | succ n ih =>
    simp only [unwind] at h
    split at h
    · cases h
    · rename_i e he
      have hn : n < 257 := (Vector.getElem?_eq_some_iff.mp he).1
      obtain ⟨hpath, hplen⟩ := hs
      rw [turns_succ he, value_snoc] at hpath
      split at h
      · rename_i hdone
        rw [hdone] at hpath
        refine ih (s := { s.pathUp with sp := n }) ⟨?_, ?_⟩ h
        · change s.path / 2 = value (turns s.stk n)
          rw [hpath, Bool.toNat_true]
          omega
        · change s.plen - 1 = n
          omega
      · rename_i hdone
        split at h
        · cases h
        · cases h
          refine ⟨?_, hplen⟩
          change s.path + 1 = value (turns (s.stk.setIfInBounds n ⟨e.node, true⟩) (n + 1))
          rw [turns_succ_setIfInBounds hn, value_snoc, hpath, Bool.eq_false_iff.mpr hdone]
          rfl

/-! ## The traversal -/

section Traverse

variable {atLeaf : Symbol → State → Result} {atInternal : State → Result} {fuel i : Nat}

/-- A traversal that answers has left the stack empty. -/
theorem traverse_sp (h : traverse onPath atLeaf atInternal fuel i s = .next t) : t.sp = 0 := by
  induction fuel generalizing i s with
  | zero => cases h
  | succ fuel ih =>
    obtain ⟨sym, u, next, v, -, hv, h⟩ | ⟨u, j, -, -, h⟩ := traverse_succ_next h
    · obtain ⟨rfl, hsp, -⟩ | ⟨j, rfl, -, -⟩ := unwind_openLefts hv
      · cases h
        exact hsp
      · exact ih h
    · exact ih h

/-- A traversal that answers has a round for each node on the stack whose left subtree it still had to finish, and one more,
for each waits for a right subtree besides. -/
theorem traverse_openLefts_lt (hleaf : ∀ sym {s t : State}, atLeaf sym s = .next t → t.stk = s.stk ∧ t.sp = s.sp)
    (hint : ∀ {s t : State}, atInternal s = .next t → t.stk = s.stk ∧ t.sp = s.sp)
    (h : traverse onPath atLeaf atInternal fuel i s = .next t) : openLefts s.stk s.sp < fuel := by
  induction fuel generalizing i s with
  | zero => cases h
  | succ fuel ih =>
    obtain ⟨sym, u, next, v, hu, hv, h⟩ | ⟨u, j, hu, hroom, h⟩ := traverse_succ_next h
    · obtain ⟨hstk, hsp⟩ := hleaf sym hu
      rw [← hstk, ← hsp]
      obtain ⟨-, -, hzero⟩ | ⟨j, rfl, -, hleft⟩ := unwind_openLefts hv
      · omega
      · have hgo := ih h
        omega
    · obtain ⟨hstk, hsp⟩ := hint hu
      have hgo := ih h
      have hpush : openLefts (u.stk.setIfInBounds u.sp ⟨i, false⟩) (u.sp + 1) = openLefts u.stk u.sp + 1 :=
        openLefts_succ_setIfInBounds hroom
      have hgo' : openLefts (u.stk.setIfInBounds u.sp ⟨i, false⟩) (u.sp + 1) < fuel := hgo
      rw [← hstk, ← hsp]
      omega

end Traverse

/-! ## `C_CODES` -/

/-- The traversal of `C_CODES` with `fuel` rounds to go. The path registers follow the stack; `spent` says that a stacked
node has taken a round, and its left subtree another where it has been finished. -/
structure State.Descends (s : State) (fuel : Nat) : Prop where
  onTurns : s.OnTurns s.sp
  sp_le : s.sp ≤ 257
  spent : 2 * s.sp + fuel ≤ 513 + openLefts s.stk s.sp

/-- At a node that the traversal can still answer from, the path has at most 256 bits (R155). -/
theorem descends_code {fuel : Nat} (hs : s.Descends fuel) (hfuel : openLefts s.stk s.sp < fuel) :
    s.plen ≤ 256 ∧ s.path < 2 ^ s.plen := by
  obtain ⟨⟨hpath, hplen⟩, hsp, hspent⟩ := hs
  have hlt := value_lt (turns s.stk s.sp)
  rw [turns_length hsp, ← hpath, ← hplen] at hlt
  exact ⟨by omega, hlt⟩

/-- After a leaf. -/
theorem descends_unwind {fuel j : Nat} (hs : s.Descends (fuel + 1)) (h : unwind true s.sp s = .next (some j, t)) :
    t.Descends fuel := by
  obtain ⟨hturns, hsp, hspent⟩ := hs
  obtain ⟨hnone, -⟩ | ⟨k, -, hle, hleft⟩ := unwind_openLefts h
  · cases hnone
  · exact ⟨onTurns_unwind hturns h, by omega, by omega⟩

/-- Below an internal node. -/
theorem descends_push {fuel i : Nat} (hs : s.Descends (fuel + 1)) (hroom : s.sp < 257) :
    ((s.goDown true).withStk (s.stk.setIfInBounds s.sp ⟨i, false⟩) (s.sp + 1)).Descends fuel := by
  obtain ⟨⟨hpath, hplen⟩, hsp, hspent⟩ := hs
  have hopen : openLefts (s.stk.setIfInBounds s.sp ⟨i, false⟩) (s.sp + 1) = openLefts s.stk s.sp + 1 :=
    openLefts_succ_setIfInBounds hroom
  refine ⟨⟨?_, congrArg (· + 1) hplen⟩, hroom, ?_⟩
  · change 2 * s.path = value (turns (s.stk.setIfInBounds s.sp ⟨i, false⟩) (s.sp + 1))
    rw [turns_succ_setIfInBounds hroom, value_snoc, hpath]
    rfl
  · change 2 * (s.sp + 1) + fuel ≤ 513 + openLefts (s.stk.setIfInBounds s.sp ⟨i, false⟩) (s.sp + 1)
    omega

theorem openLefts_lt_of_bindCode {fuel i : Nat} (h : traverse true bindCode .next fuel i s = .next t) :
    openLefts s.stk s.sp < fuel := by
  refine traverse_openLefts_lt (fun sym _ _ hbind => ?_) (fun hnext => ?_) h
  · obtain ⟨-, rfl⟩ := bindCode_next hbind
    exact ⟨rfl, rfl⟩
  · cases hnext
    exact ⟨rfl, rfl⟩

/-- Unwinding binds no code. -/
theorem codesFit_unwind {n : Nat} (hfit : s.CodesFit) (h : unwind onPath n s = .next (next, t)) : t.CodesFit := by
  obtain ⟨stk, sp, path, plen, rfl, -⟩ := unwind_next h
  exact hfit

/-- Every code that the traversal binds fits, and in the end the path is empty. -/
theorem traverse_codesFit {fuel i : Nat} (hs : s.Descends fuel) (hfit : s.CodesFit)
    (h : traverse true bindCode .next fuel i s = .next t) : t.CodesFit ∧ t.OnTurns 0 := by
  induction fuel generalizing i s with
  | zero => cases h
  | succ fuel ih =>
    have hlt := openLefts_lt_of_bindCode h
    obtain ⟨sym, u, next, v, hu, hv, h⟩ | ⟨u, j, hu, hroom, h⟩ := traverse_succ_next h
    · obtain ⟨-, rfl⟩ := bindCode_next hu
      have hbound : (s.writeCode sym.toNat ⟨s.plen, s.path⟩).CodesFit :=
        forall_mem_setIfInBounds hfit (descends_code hs hlt)
      have hturns : (s.writeCode sym.toNat ⟨s.plen, s.path⟩).OnTurns s.sp := ⟨hs.onTurns.path, hs.onTurns.plen⟩
      have hfit' := codesFit_unwind hbound hv
      cases next with
      | none =>
        cases h
        obtain ⟨-, hsp, -⟩ | ⟨j, hj, -⟩ := unwind_openLefts hv
        · exact ⟨hfit', hsp ▸ onTurns_unwind hturns hv⟩
        · cases hj
      | some j => exact ih (descends_unwind ⟨hturns, hs.sp_le, hs.spent⟩ hv) hfit' h
    · cases hu
      exact ih (descends_push hs hroom) hfit h

/-- `C_CODES` leaves codes that fit, the path and the stack empty (R29, R155). -/
theorem execCCodes_fits (h : execCCodes s = .next t) : t.CodesFit ∧ t.path = 0 ∧ t.plen = 0 ∧ t.sp = 0 := by
  rw [execCCodes_eq] at h
  obtain ⟨u, hu, h⟩ := andThen_eq_next.mp h
  cases h
  have hstart : ((s.clearCodes.atPath []).withStk s.stk 0).Descends Config.nodeCap :=
    ⟨⟨rfl, rfl⟩, Nat.zero_le _, le_rfl⟩
  have hcleared : ((s.clearCodes.atPath []).withStk s.stk 0).CodesFit :=
    forall_mem_replicate ⟨Nat.zero_le _, Nat.one_pos⟩
  have hsp := traverse_sp hu
  obtain ⟨hfit, hpath, hplen⟩ := traverse_codesFit hstart hcleared hu
  exact ⟨hfit, hpath, hplen, hsp⟩

end Sys2Proof.Machine
end

section
/-! What the counts and the builder keep in range (R25 to R27, R123, R136): the counts sum to no more than `N_IN` and the
sentinel's 1, the live weights to no more than the counts. -/

namespace Sys2Proof.Machine

variable {s t : State}

/-! ## The counts -/

theorem sum_set_le (L : List Nat) (n : Nat) {c : Nat} (hc : c ≤ L[n]?.getD 0 + 1) : (L.set n c).sum ≤ L.sum + 1 := by
  induction L generalizing n with
  | nil => exact Nat.zero_le _
  | cons x L ih =>
    cases n with
    | zero =>
      have hc' : c ≤ x + 1 := hc
      rw [List.set_cons_zero, List.sum_cons, List.sum_cons]
      omega
    | succ n =>
      have hrest := ih n hc
      rw [List.set_cons_succ, List.sum_cons, List.sum_cons]
      omega

/-- A count that grows by at most 1 adds at most 1 to the sum. -/
theorem sum_setIfInBounds_le (freq : Vector Nat 257) (v : Nat) {c : Nat} (hc : c ≤ freq[v]?.getD 0 + 1) :
    (freq.setIfInBounds v c).toList.sum ≤ freq.toList.sum + 1 := by
  rw [Vector.toList_setIfInBounds]
  exact sum_set_le _ v (by rwa [Vector.getElem?_toList])

/-- The counting loop stops before `N_IN` would pass its bound, and counts a byte once (R122, R123). -/
theorem countLoop_counts {maxIn fuel : Nat} (hn : s.nIn ≤ maxIn) (hsum : s.freq.toList.sum ≤ s.nIn)
    (h : countLoop maxIn fuel s = .next t) : t.nIn ≤ maxIn ∧ t.freq.toList.sum ≤ maxIn + 1 := by
  induction fuel generalizing s with
  | zero => cases h
  | succ fuel ih =>
    simp only [countLoop] at h
    obtain ⟨⟨v, u⟩, hu, h⟩ := andThen_eq_next.mp h
    obtain ⟨-, ⟨-, rfl, rfl⟩ | ⟨-, rfl, rfl⟩⟩ := inBits_next hu
    · simp only at h
      split at h
      · obtain ⟨o, -, -, -, rfl⟩ := raiseErr_next h
        exact ⟨hn, hsum.trans (hn.trans (Nat.le_succ _))⟩
      · rename_i hne
        have hn' : s.nIn + 1 ≤ maxIn := Nat.lt_of_le_of_ne hn hne
        exact ih hn' ((sum_setIfInBounds_le s.freq _ le_rfl).trans (Nat.succ_le_succ hsum)) h
    · cases h
      have hend : (s.freq.setIfInBounds 256 1).toList.sum ≤ s.freq.toList.sum + 1 :=
        sum_setIfInBounds_le s.freq 256 (Nat.le_add_left 1 _)
      exact ⟨hn, hend.trans (Nat.succ_le_succ (hsum.trans hn))⟩

/-- `C_FREQ` counts from 0 (R121). -/
theorem execCFreq_fits (h : execCFreq s = .next t) :
    t.nIn ≤ Config.maxIn ∧ t.freq.toList.sum ≤ 2 ^ Config.cntW - 1 := by
  obtain ⟨u, hu, h⟩ := andThen_eq_next.mp h
  obtain ⟨i, -, -, rfl⟩ := inRewind_next hu
  have hzero : (Vector.replicate 257 0).toList.sum ≤ 0 := by
    rw [Vector.toList_replicate, List.sum_replicate, smul_zero]
  have hmax : Config.maxIn + 1 = 2 ^ Config.cntW - 1 := by simp [Config.maxIn, Config.cntW]
  rw [← hmax]
  refine countLoop_counts ?_ ?_ h
  · exact Nat.zero_le _
  · exact hzero

/-! ## The merges -/

/-- A merge has a free entry and two live nodes, for the nodes in use and the live ones together stay as many. What every
such merge keeps, the loop keeps. -/
theorem mergeLoop_keeps (P : State → Prop)
    (hmerge : ∀ u : State, u.nodeCount < 513 → 1 < u.liveCount → P u → P (mergeOnce u)) {fuel : Nat}
    (hroom : s.nodeCount + s.liveCount ≤ 514) (hs : P s) : P (mergeLoop fuel s) := by
  induction fuel generalizing s with
  | zero => exact hs
  | succ fuel ih =>
    rw [mergeLoop]
    split
    · rename_i hlive
      have hfree : s.nodeCount < 513 := by omega
      obtain ⟨-, -, -, -, -, hcount, hlive', -⟩ := mergeJoinsTheTwoLeast s hfree hlive
      exact ih (by omega) (hmerge s hfree hlive hs)
    · exact hs

/-- There are at most 257 leaves. -/
theorem placeLeaves_room (s : State) : s.placeLeaves.nodeCount + s.placeLeaves.liveCount ≤ 514 := by
  obtain ⟨hcount, hforest⟩ := forest_placeLeaves s
  have hle := positives_length s.freq
  rw [hcount, forest_liveCount hforest, leafForest_length]
  omega

/-- The entry that a merge writes: its children are nodes in use (R135). -/
theorem mergeOnce_writes (hlive : 1 < s.liveCount) :
    ∃ a b, a ∈ s.liveSet ∧ b ∈ s.liveSet.erase a ∧
      mergeOnce s = ((s.writeLive a false).writeLive b false).addNode (internalNode (s.weight a + s.weight b) a b) := by
  obtain ⟨ha, hb⟩ := extractMin_twice hlive
  exact ⟨_, _, ha, hb, mergeOnce_eq rfl rfl⟩

/-! ## The entries that the builder writes -/

/-- What holds of every entry, and of a leaf for each positive count, holds of every entry after the leaves. -/
theorem placeLeaves_nodes {p : Node → Prop} (hs : ∀ n ∈ s.nodes.toList, p n)
    (hleaf : ∀ c ∈ positives s.freq, p (leafNode c.1 c.2)) : ∀ n ∈ s.placeLeaves.nodes.toList, p n := by
  rw [placeLeaves_eq_foldl]
  exact List.foldlRecOn (motive := fun u : State => ∀ n ∈ u.nodes.toList, p n) _ _ hs
    fun u hu c hc => forall_mem_setIfInBounds hu (hleaf c hc)

theorem wrapSole_nodes (s : State) :
    s.wrapSole.nodes = (s.nodes.setIfInBounds 1 (leafNode 0 0)).setIfInBounds 2
      (internalNode ((s.writeNode 1 (leafNode 0 0)).weight 0) 0 1) := by
  simp only [State.wrapSole, writeLive_nodes, writeNode_nodes, Nat.add_zero]

theorem inRange_leafNode {sym : Symbol} (w : Nat) (hsym : sym.toNat ≤ 256) : (leafNode sym w).InRange :=
  ⟨hsym, by simp [leafNode], by simp [leafNode]⟩

theorem inRange_internalNode {a b : Nat} (w : Nat) (ha : a < 1024) (hb : b < 1024) : (internalNode w a b).InRange :=
  ⟨Nat.zero_le _, ha, hb⟩

/-- The store that the merge loop leaves is in range. -/
theorem mergeLoop_inRange (hs : ∀ n ∈ s.placeLeaves.nodes.toList, n.InRange) (fuel : Nat) :
    (mergeLoop fuel s.placeLeaves).nodeCount ≤ 513 ∧ ∀ n ∈ (mergeLoop fuel s.placeLeaves).nodes.toList, n.InRange := by
  have hroom := placeLeaves_room s
  have hcount : s.placeLeaves.nodeCount ≤ 513 := by
    rw [(forest_placeLeaves s).1]
    exact (positives_length s.freq).trans (by decide)
  refine mergeLoop_keeps (fun u => u.nodeCount ≤ 513 ∧ ∀ n ∈ u.nodes.toList, n.InRange) ?_ hroom ⟨hcount, hs⟩
  rintro u hfree hlive ⟨-, hu⟩
  obtain ⟨a, b, ha, hb, hmerge⟩ := mergeOnce_writes hlive
  have ha' := (mem_liveSet.mp ha).1
  have hb' := (mem_liveSet.mp (Finset.mem_of_mem_erase hb)).1
  rw [hmerge]
  exact ⟨hfree, forall_mem_setIfInBounds hu (inRange_internalNode _ (by omega) (by omega))⟩

/-- `C_BUILD` keeps the node store in range (R25, R27). -/
theorem execCBuild_inRange (hroot : s.root ≤ 512) (hs : ∀ n ∈ s.nodes.toList, n.InRange)
    (h : execCBuild s = .next t) : t.nodeCount ≤ 513 ∧ t.root ≤ 512 ∧ ∀ n ∈ t.nodes.toList, n.InRange := by
  have hplaced : ∀ n ∈ s.placeLeaves.nodes.toList, n.InRange :=
    placeLeaves_nodes hs fun c hc => inRange_leafNode _ (positives_symbol_le (List.mem_map_of_mem hc))
  obtain hraise | rfl | rfl := execCBuild_next h
  · obtain ⟨o, -, -, -, rfl⟩ := raiseErr_next hraise
    have hbuild := buildsOn_placeLeaves s
    have hroot' : s.placeLeaves.root = s.root := by rw [← hbuild]; rfl
    have hcount := (forest_placeLeaves s).1
    have hle := positives_length s.freq
    exact ⟨by rw [hcount]; omega, by rw [hroot']; exact hroot, hplaced⟩
  · refine ⟨show 3 ≤ 513 by decide, show 3 - 1 ≤ 512 by decide, ?_⟩
    rw [finishBuild_nodes, wrapSole_nodes]
    exact forall_mem_setIfInBounds (forall_mem_setIfInBounds hplaced (inRange_leafNode 0 (by decide)))
      (inRange_internalNode _ (by decide) (by decide))
  · obtain ⟨hcount, hnodes⟩ := mergeLoop_inRange hplaced s.placeLeaves.nodeCount
    exact ⟨hcount, by rw [finishBuild_root]; omega, hnodes⟩

/-! ## The weights -/

/-- The weights of the live nodes together (R136). -/
def State.liveWeight (s : State) : Nat := ∑ i ∈ s.liveSet, s.weight i

theorem liveWeight_addNode (hroom : s.nodeCount < 513) (n : Node) :
    (s.addNode n).liveWeight = n.weight + s.liveWeight := by
  have hfresh : s.nodeCount ∉ s.liveSet := by simp
  have hnew : (s.addNode n).weight s.nodeCount = n.weight := weight_of_readNode (readNode_addNode_same s hroom n)
  have hkept : ∀ i ∈ s.liveSet, (s.addNode n).weight i = s.weight i := fun i hi => by
    rw [State.weight, readNode_addNode_ne s (mem_liveSet.mp hi).1.ne, State.weight]
  rw [State.liveWeight, liveSet_addNode s hroom, Finset.sum_insert hfresh, hnew, Finset.sum_congr rfl hkept,
    State.liveWeight]

theorem liveWeight_writeLive_false {i : Nat} (hi : i ∈ s.liveSet) :
    (s.writeLive i false).liveWeight + s.weight i = s.liveWeight := by
  rw [State.liveWeight, liveSet_writeLive_false]
  exact Finset.sum_erase_add s.liveSet s.weight hi

/-- A merge keeps the sum, and the new node weighs no more than it. -/
theorem liveWeight_mergeOnce {a b : Nat} (hroom : s.nodeCount < 513) (ha : a ∈ s.liveSet)
    (hb : b ∈ s.liveSet.erase a) :
    s.weight a + s.weight b ≤ s.liveWeight ∧
      (((s.writeLive a false).writeLive b false).addNode
        (internalNode (s.weight a + s.weight b) a b)).liveWeight = s.liveWeight := by
  have hfirst := liveWeight_writeLive_false ha
  rw [← liveSet_writeLive_false] at hb
  have hsecond := liveWeight_writeLive_false hb
  have hweight : (s.writeLive a false).weight b = s.weight b := rfl
  have hnew : (internalNode (s.weight a + s.weight b) a b).weight = s.weight a + s.weight b := rfl
  rw [liveWeight_addNode (s := (s.writeLive a false).writeLive b false) hroom, hnew]
  omega

/-- The leaves weigh what the positive counts are. -/
theorem liveWeight_addLeaves (s : State) (L : List (Symbol × Nat)) (hroom : L.length ≤ 513) :
    (L.foldl State.addLeaf s.emptyStore).liveWeight = (L.map Prod.snd).sum := by
  induction L using List.reverseRecOn with
  | nil =>
    have hnone : s.emptyStore.liveSet = ∅ := Finset.eq_empty_of_forall_notMem (by simp)
    rw [List.foldl_nil, State.liveWeight, hnone]
    rfl
  | append_singleton L c ih =>
    rw [List.length_append, List.length_singleton] at hroom
    have hfree : (L.foldl State.addLeaf s.emptyStore).nodeCount < 513 := by
      rw [(forest_addLeaves s L (by omega)).1]
      omega
    rw [List.foldl_append, List.foldl_cons, List.foldl_nil, State.addLeaf, liveWeight_addNode hfree, ih (by omega),
      List.map_append, List.sum_append, List.map_singleton, List.sum_singleton, Nat.add_comm]
    rfl

/-- The positive counts are some of the counts. -/
theorem positives_sum_le (freq : Vector Nat 257) : ((positives freq).map Prod.snd).sum ≤ freq.toList.sum := by
  have hmap : (positives freq).map Prod.snd = (freq.toList.zipIdx.filter fun c => 0 < c.1).map Prod.fst := by
    rw [positives, List.map_map]
    rfl
  have hsub := (List.filter_sublist (p := fun c => 0 < c.1) (l := freq.toList.zipIdx)).map Prod.fst
  rw [List.zipIdx_map_fst, ← hmap] at hsub
  exact hsub.sum_le_sum fun _ _ => Nat.zero_le _

theorem weight_lt {W : Nat} (hW : 0 < W) (hs : ∀ n ∈ s.nodes.toList, n.weight < W) (i : Nat) : s.weight i < W := by
  cases hn : s.readNode i with
  | none => simpa [State.weight, hn] using hW
  | some n =>
    rw [weight_of_readNode hn]
    exact hs n (List.mem_of_getElem? (i := i) (by rw [Vector.getElem?_toList]; exact hn))

/-- The root over the sole leaf weighs what the leaf does (R137). -/
theorem wrapSole_weights {W : Nat} (hW : 0 < W) (hs : ∀ n ∈ s.nodes.toList, n.weight < W) :
    ∀ n ∈ s.wrapSole.nodes.toList, n.weight < W := by
  have hphantom : ∀ n ∈ (s.writeNode 1 (leafNode 0 0)).nodes.toList, n.weight < W := forall_mem_setIfInBounds hs hW
  have hroot := weight_lt hW hphantom 0
  rw [wrapSole_nodes]
  exact forall_mem_setIfInBounds hphantom hroot

/-- `C_BUILD` writes no weight above the sum of the counts (R136). -/
theorem execCBuild_weights {W : Nat} (hsum : s.freq.toList.sum < W) (hs : ∀ n ∈ s.nodes.toList, n.weight < W)
    (h : execCBuild s = .next t) : ∀ n ∈ t.nodes.toList, n.weight < W := by
  have hW : 0 < W := Nat.zero_lt_of_lt hsum
  have hpos := positives_sum_le s.freq
  have hplaced : ∀ n ∈ s.placeLeaves.nodes.toList, n.weight < W := placeLeaves_nodes hs fun c hc =>
    (List.le_sum_of_mem (List.mem_map_of_mem hc)).trans_lt (hpos.trans_lt hsum)
  have hlive : s.placeLeaves.liveWeight < W := by
    rw [placeLeaves_eq_foldl, liveWeight_addLeaves s _ ((positives_length s.freq).trans (by decide))]
    exact hpos.trans_lt hsum
  obtain hraise | rfl | rfl := execCBuild_next h
  · obtain ⟨o, -, -, -, rfl⟩ := raiseErr_next hraise
    exact hplaced
  · rw [finishBuild_nodes]
    exact wrapSole_weights hW hplaced
  · refine (mergeLoop_keeps (fun u => u.liveWeight < W ∧ ∀ n ∈ u.nodes.toList, n.weight < W) ?_ (placeLeaves_room s)
      ⟨hlive, hplaced⟩).2
    rintro u hfree hmore ⟨hu, hnodes⟩
    obtain ⟨a, b, ha, hb, hmerge⟩ := mergeOnce_writes hmore
    obtain ⟨hle, hkept⟩ := liveWeight_mergeOnce hfree ha hb
    rw [hmerge]
    exact ⟨hkept.trans_lt hu, forall_mem_setIfInBounds hnodes (hle.trans_lt hu)⟩

end Sys2Proof.Machine
end

section
/-! What `D_HEADER` and `D_WALK` keep in range (R25, R27, R30), and the ranges and widths that every step keeps (R25 to R29,
R123, R136, R155). -/

namespace Sys2Proof.Machine

variable {s t : State}

/-! ## `D_HEADER` -/

/-- A property of node entries and one of `ROOT` that hold of all that `D_HEADER` writes there (R164, R169). -/
structure AdmitsHeader (q : Node → Prop) (R : Nat → Prop) : Prop where
  leaf : ∀ sym : Symbol, sym.toNat ≤ 256 → q (leafNode sym 0)
  internal : ∀ a b, a < 1024 → b < 1024 → q (internalNode 0 a b)
  root : ∀ r, r ≤ 512 → R r

/-- The stack's first `n` entries name entries of the node store (R30). -/
def NamesNodes (stk : Vector StkEntry 257) (n : Nat) : Prop := ∀ k e, k < n → stk[k]? = some e → e.node ≤ 512

/-- The node store and the stack of `D_HEADER` are in range. -/
structure State.HeaderRange (s : State) (q : Node → Prop) (R : Nat → Prop) : Prop where
  count : s.nodeCount ≤ 513
  root : R s.root
  sp : s.sp ≤ 257
  stk : NamesNodes s.stk s.sp
  nodes : ∀ n ∈ s.nodes.toList, q n

theorem namesNodes_setIfInBounds {stk : Vector StkEntry 257} {n : Nat} {x : StkEntry} (h : NamesNodes stk n)
    (hx : x.node ≤ 512) : NamesNodes (stk.setIfInBounds n x) (n + 1) := by
  intro k e hk he
  by_cases hkn : k = n
  · subst hkn
    obtain ⟨hlt, -⟩ := Vector.getElem?_eq_some_iff.mp he
    rw [Vector.getElem?_setIfInBounds_self_of_lt hlt] at he
    cases he
    exact hx
  · rw [Vector.getElem?_setIfInBounds_ne (Ne.symm hkn)] at he
    exact h k e (by omega) he

section Header

variable {q : Node → Prop} {R : Nat → Prop}

/-- A raise touches neither the store nor the stack. -/
theorem headerRange_raise {e : Err} (hs : s.HeaderRange q R) (h : raiseErr e s = .next t) : t.HeaderRange q R := by
  obtain ⟨o, -, -, -, rfl⟩ := raiseErr_next h
  exact ⟨hs.count, hs.root, hs.sp, hs.stk, hs.nodes⟩

theorem headerRange_advance (hs : s.HeaderRange q R) (n : Nat) : (s.advance n).HeaderRange q R :=
  ⟨hs.count, hs.root, hs.sp, hs.stk, hs.nodes⟩

theorem headerRange_afterEos (hs : s.HeaderRange q R) (n : Nat) : (afterEos s n).HeaderRange q R :=
  ⟨hs.count, hs.root, hs.sp, hs.stk, hs.nodes⟩

theorem headerRange_takeIndex (hs : s.HeaderRange q R) (hroom : s.nodeCount < 513) : s.takeIndex.HeaderRange q R :=
  ⟨hroom, hs.root, hs.sp, hs.stk, hs.nodes⟩

theorem headerRange_pushInternal (hs : s.HeaderRange q R) (hroom : s.nodeCount < 513) :
    s.pushInternal.HeaderRange q R := by
  by_cases hsp : s.sp < 257
  · have hpush : s.pushInternal = s.takeIndex.withStk (s.stk.setIfInBounds s.sp ⟨s.nodeCount, false⟩) (s.sp + 1) :=
      pushInternal_withStk (s := s) hsp
    rw [hpush]
    exact ⟨hroom, hs.root, hsp, namesNodes_setIfInBounds hs.stk (Nat.le_of_lt_succ hroom), hs.nodes⟩
  · rw [pushInternal_of_full (Nat.not_lt.mp hsp)]
    exact headerRange_takeIndex hs hroom

theorem headerRange_internalToken {more : Bool} (hs : s.HeaderRange q R)
    (h : internalToken s = .next (more, t)) : t.HeaderRange q R := by
  obtain ⟨-, -, hraise⟩ | ⟨hroom, -, rfl⟩ := internalToken_next h
  · exact headerRange_raise hs hraise
  · exact headerRange_pushInternal hs hroom

theorem headerRange_closeSubtrees (hq : AdmitsHeader q R) {n i : Nat} {done : Option Nat} (hs : s.HeaderRange q R)
    (hsp : s.sp = n) (hi : i ≤ 512) (h : closeSubtrees n i s = .next (done, t)) : t.HeaderRange q R := by
  induction n generalizing i s with
  | zero =>
    cases h
    exact ⟨hs.count, hs.root, Nat.zero_le _, fun _ _ hk => absurd hk (Nat.not_lt_zero _), hs.nodes⟩
  | succ n ih =>
    have hbelow : NamesNodes s.stk n := fun k e hk => hs.stk k e (by omega)
    have hle : n + 1 ≤ 257 := hsp ▸ hs.sp
    simp only [closeSubtrees] at h
    split at h
    · cases h
    · rename_i e he
      have hnode : e.node ≤ 512 := hs.stk n e (by omega) he
      split at h
      · exact ih (s := { s.writeNode e.node (internalNode 0 (e.node + 1) i) with sp := n })
          ⟨hs.count, hs.root, Nat.le_of_succ_le hle, hbelow,
            forall_mem_setIfInBounds hs.nodes (hq.internal _ _ (by omega) (by omega))⟩ rfl hnode h
      · cases h
        exact ⟨hs.count, hs.root, hle, namesNodes_setIfInBounds hbelow hnode, hs.nodes⟩

theorem headerRange_finishHeader (hq : AdmitsHeader q R) {root : Nat} (hs : s.HeaderRange q R)
    (h : finishHeader root s = .next t) : t.HeaderRange q R := by
  unfold finishHeader at h
  split at h
  · cases h
  · rename_i nd hnd
    have hroot : root < 513 := (Vector.getElem?_eq_some_iff.mp hnd).1
    have hs' : State.HeaderRange { s with root := root } q R :=
      ⟨hs.count, hq.root _ (Nat.le_of_lt_succ hroot), hs.sp, hs.stk, hs.nodes⟩
    simp only at h
    split at h
    · exact headerRange_raise hs' h
    · cases h
      exact ⟨hs'.count, hs'.root, hs'.sp, hs'.stk, hs'.nodes⟩

theorem headerRange_leafToken (hq : AdmitsHeader q R) {sym : Symbol} {more : Bool} (hs : s.HeaderRange q R)
    (h : leafToken sym s = .next (more, t)) : t.HeaderRange q R := by
  unfold leafToken at h
  split at h
  · exact headerRange_raise hs (raiseRound_next h).2
  · rename_i hfull
    have hroom : s.nodeCount < 513 := Nat.lt_of_not_le hfull
    have htake := headerRange_takeIndex hs hroom
    split at h
    · exact headerRange_raise htake (raiseRound_next h).2
    · rename_i hsym
      have hsym' : sym.toNat ≤ 256 := Nat.le_of_not_lt hsym
      obtain ⟨⟨done, u⟩, hu, h⟩ := andThen_eq_next.mp h
      have hleaf : (s.takeIndex.writeNode s.nodeCount (leafNode sym 0)).HeaderRange q R :=
        ⟨htake.count, htake.root, htake.sp, htake.stk, forall_mem_setIfInBounds hs.nodes (hq.leaf sym hsym')⟩
      have hclose := headerRange_closeSubtrees hq hleaf rfl (Nat.le_of_lt_succ hroom) hu
      cases done with
      | none =>
        cases h
        exact hclose
      | some root =>
        obtain ⟨v, hv, h⟩ := andThen_eq_next.mp h
        cases h
        exact headerRange_finishHeader hq hclose hv

theorem headerRange_headerLoop (hq : AdmitsHeader q R) {fuel : Nat} (hs : s.HeaderRange q R)
    (h : headerLoop fuel s = .next t) : t.HeaderRange q R := by
  induction fuel generalizing s with
  | zero => cases h
  | succ fuel ih =>
    have hread := headerRange_advance hs 1
    have hgo : ∀ (more : Bool) (v : State), v.HeaderRange q R → (if more then headerLoop fuel v else .next v) = .next t →
        t.HeaderRange q R := by
      rintro (_ | _) v hv h
      · cases h
        exact hv
      · exact ih hv h
    obtain ⟨e, u, -, hraise, rfl | rfl | ⟨hroom, rfl⟩⟩ | ⟨more, v, h, hv | ⟨sym, hv⟩⟩ := headerLoop_succ_next h
    · exact headerRange_raise (headerRange_afterEos hs 1) hraise
    · exact headerRange_raise hread hraise
    · exact headerRange_raise (headerRange_takeIndex (headerRange_afterEos hread 9) hroom) hraise
    · exact hgo more v (headerRange_internalToken hread hv) h
    · exact hgo more v (headerRange_leafToken hq (headerRange_advance hread 9) hv) h

/-- `D_HEADER` starts with no node in use and the stack empty (R164). -/
theorem execDHeader_range (hq : AdmitsHeader q R) (hroot : R s.root) (hs : ∀ n ∈ s.nodes.toList, q n)
    (h : execDHeader s = .next t) : t.HeaderRange q R := by
  refine headerRange_headerLoop hq (s := { s with nodeCount := 0, sp := 0 }) ?_ h
  exact ⟨Nat.zero_le _, hroot, Nat.zero_le _, fun _ _ hk => absurd hk (Nat.not_lt_zero _), hs⟩

end Header

/-! ## `D_WALK` -/

/-- A round of the walk keeps `ROOT`, and leaves the cursor at a node of the store or at the root (R203). -/
theorem walkBit_cursor {b more : Bool} (h : walkBit b s = .next (more, t)) :
    t.root = s.root ∧ (t.cur ≤ 512 ∨ t.cur = s.root) := by
  unfold walkBit at h
  split at h
  · cases h
  · simp only at h
    split at h
    · cases h
    · rename_i nd' hnd'
      have hchild := Nat.le_of_lt_succ (Vector.getElem?_eq_some_iff.mp hnd').1
      split at h
      · split at h
        · cases h
          exact ⟨rfl, .inl hchild⟩
        · obtain ⟨u, hu, h⟩ := andThen_eq_next.mp h
          obtain ⟨o, -, -, -, rfl⟩ := outBits_next hu
          cases h
          exact ⟨rfl, .inr rfl⟩
      · cases h
        exact ⟨rfl, .inl hchild⟩

theorem execDWalk_cursor (hroot : s.root ≤ 512) (h : execDWalk s = .next t) : t.cur ≤ 512 := by
  refine (walkLoop_keeps (fun u : State => u.root ≤ 512 ∧ u.cur ≤ 512) (fun _ _ _ hu => hu) (fun u v hu hraise => ?_)
    (fun b more u v hu hbit => ?_) (s := { s with cur := s.root }) h ⟨hroot, hroot⟩).2
  · obtain ⟨o, -, -, -, rfl⟩ := raiseErr_next hraise
    exact hu
  · obtain ⟨hroot', hcur⟩ := walkBit_cursor hbit
    exact ⟨hroot' ▸ hu.1, hcur.elim id fun heq => heq ▸ hu.1⟩

/-! ## The ranges -/

/-- A part is in its range (R25, R27). -/
def Part.Fits : (g : Part) → g.Content → Prop
  | .counts, c => c.2 ≤ Config.maxIn
  | .live, _ => True
  | .codes, c => c.2.2 ≤ 256 ∧ c.2.1 < 2 ^ c.2.2
  | .store, c => c.2.1 ≤ 513 ∧ c.2.2 ≤ 512 ∧ ∀ n ∈ c.1.toList, n.InRange
  | .stack, c => c.2 ≤ 257
  | .cursor, (c : Nat) => c ≤ 512

theorem inRange_iff : s.InRange ↔ ∀ g : Part, g.Fits (s.part g) := by
  constructor
  · rintro ⟨hnIn, hcount, hroot, hcur, hplen, hsp, hpath, hnodes⟩ g
    cases g with
    | counts => exact hnIn
    | live => trivial
    | codes => exact ⟨hplen, hpath⟩
    | store => exact ⟨hcount, hroot, hnodes⟩
    | stack => exact hsp
    | cursor => exact hcur
  · intro h
    obtain ⟨hplen, hpath⟩ := h .codes
    obtain ⟨hcount, hroot, hnodes⟩ := h .store
    exact ⟨h .counts, hcount, hroot, h .cursor, hplen, h .stack, hpath, hnodes⟩

theorem admitsHeader_inRange : AdmitsHeader Node.InRange (· ≤ 512) :=
  ⟨fun _ hsym => inRange_leafNode 0 hsym, fun _ _ ha hb => inRange_internalNode 0 ha hb, fun _ hr => hr⟩

/-- The parts that a phase writes are in their ranges after it. -/
theorem fits_writtenParts {i : Instr} (hi : isPhase i = true) (hs : s.InRange) (h : exec i s = .next t) :
    ∀ g ∈ writtenParts i, g.Fits (t.part g) := by
  obtain ⟨-, -, hroot, -, -, -, -, hnodes⟩ := hs
  cases i with
  | cFreq => exact List.forall_mem_singleton.mpr (execCFreq_fits h).1
  | cBuild => exact List.forall_mem_cons.mpr ⟨trivial, List.forall_mem_singleton.mpr (execCBuild_inRange hroot hnodes h)⟩
  | cCodes =>
    obtain ⟨-, hpath, hplen, hsp⟩ := execCCodes_fits h
    have hcodes : t.plen ≤ 256 ∧ t.path < 2 ^ t.plen := by
      rw [hpath, hplen]
      decide
    exact List.forall_mem_cons.mpr ⟨hcodes, List.forall_mem_singleton.mpr (hsp.trans_le (Nat.zero_le _))⟩
  | cHeader =>
    obtain ⟨u, hu, h⟩ := andThen_eq_next.mp h
    cases h
    have hsp : u.sp = 0 := traverse_sp hu
    exact List.forall_mem_singleton.mpr (hsp.trans_le (Nat.zero_le _))
  | dHeader =>
    have hrange := execDHeader_range admitsHeader_inRange hroot hnodes h
    exact List.forall_mem_cons.mpr
      ⟨⟨hrange.count, hrange.root, hrange.nodes⟩, List.forall_mem_singleton.mpr hrange.sp⟩
  | dWalk => exact List.forall_mem_singleton.mpr (execDWalk_cursor hroot h)
  | cMagic | cPayload | cTerm | cClose | dMagic | dClose => exact List.forall_mem_nil _
  | compress | decompress => cases hi
  | magic m => cases hi
  | nodeInternal => cases hi
  | nodeLeaf sym => cases hi
  | codeword c | terminator c | pad c => cases hi

/-- A part that an instruction does not write is as before. -/
theorem inRange_exec {i : Instr} (hs : s.InRange) (h : exec i s = .next t)
    (hwritten : ∀ g ∈ writtenParts i, g.Fits (t.part g)) : t.InRange := by
  refine inRange_iff.mpr fun g => ?_
  by_cases hg : g ∈ writtenParts i
  · exact hwritten g hg
  · rw [keeps_exec h g hg]
    exact inRange_iff.mp hs g

/-- The commands write no part. -/
theorem writtenParts_of_command {i : Instr} (hi : i = .compress ∨ i = .decompress) : writtenParts i = [] := by
  rcases hi with rfl | rfl <;> rfl

theorem reset_inRange : State.reset.InRange :=
  ⟨Nat.zero_le _, Nat.zero_le _, Nat.zero_le _, Nat.zero_le _, Nat.zero_le _, Nat.zero_le _, Nat.one_pos,
    forall_mem_replicate ⟨by decide, by decide, by decide⟩⟩

/-- Settles O55: each phase brings the parts that it writes into their ranges, and a host event writes none but by a
reset. -/
theorem stepKeepsRanges : Obligations.StepKeepsRanges := by
  intro s t hs hstep
  cases step_does hstep with
  | @phase i h _ _ hi _ hrun =>
    have hs' : State.InRange { s with host := h } := hs
    exact inRange_exec hs' hrun (fits_writtenParts hi hs' hrun)
  | @command i h _ hi hrun =>
    have hs' : State.InRange { s with host := h } := hs
    exact inRange_exec hs' hrun (by rw [writtenParts_of_command hi]; exact List.forall_mem_nil _)
  | badCommand => exact hs
  | reset => exact reset_inRange
  | hostEvent => exact hs

/-! ## The widths -/

theorem admitsHeader_weight : AdmitsHeader (fun n => n.weight < 2 ^ Config.cntW) fun _ => True :=
  ⟨fun _ _ => Nat.two_pow_pos _, fun _ _ _ _ => Nat.two_pow_pos _, fun _ _ => trivial⟩

/-- The weights after a phase or a command (R136, R169). -/
theorem weights_exec {i : Instr} (hi : isPhase i = true ∨ i = .compress ∨ i = .decompress) (hs : s.CountsFit)
    (h : exec i s = .next t) : ∀ n ∈ t.nodes.toList, n.weight < 2 ^ Config.cntW := by
  obtain ⟨hsum, hnodes⟩ := hs
  by_cases hbuild : i = .cBuild
  · subst hbuild
    exact execCBuild_weights (hsum.trans_lt (Nat.sub_lt (Nat.two_pow_pos _) Nat.one_pos)) hnodes h
  by_cases hheader : i = .dHeader
  · subst hheader
    exact (execDHeader_range admitsHeader_weight trivial hnodes h).nodes
  · have hint : i ≠ .nodeInternal := by rintro rfl; simp [isPhase, phaseCode] at hi
    have hleaf : ∀ sym, i ≠ .nodeLeaf sym := by rintro sym rfl; simp [isPhase, phaseCode] at hi
    obtain ⟨-, -, -, hstore, -⟩ := onlyTheNamedPhasesWrite i s t h
    rw [(hstore hbuild hheader hint hleaf).1]
    exact hnodes

theorem countsFit_exec {i : Instr} (hi : isPhase i = true ∨ i = .compress ∨ i = .decompress) (hs : s.CountsFit)
    (h : exec i s = .next t) : t.CountsFit := by
  refine ⟨?_, weights_exec hi hs h⟩
  by_cases hfreq : i = .cFreq
  · subst hfreq
    exact (execCFreq_fits h).2
  · obtain ⟨hcounts, -⟩ := onlyTheNamedPhasesWrite i s t h
    rw [(hcounts hfreq).1]
    exact hs.1

theorem codesFit_exec {i : Instr} (hs : s.CodesFit) (h : exec i s = .next t) : t.CodesFit := by
  by_cases hcodes : i = .cCodes
  · subst hcodes
    exact (execCCodes_fits h).1
  · obtain ⟨-, -, hkept, -⟩ := onlyTheNamedPhasesWrite i s t h
    rw [State.CodesFit, (hkept hcodes).1]
    exact hs

theorem reset_countsFit : State.reset.CountsFit := by
  refine ⟨?_, forall_mem_replicate (Nat.two_pow_pos _)⟩
  have hzero : State.reset.freq.toList.sum = 0 := by
    rw [State.reset, Vector.toList_replicate, List.sum_replicate, smul_zero]
  rw [hzero]
  exact Nat.zero_le _

theorem reset_codesFit : State.reset.CodesFit := forall_mem_replicate ⟨Nat.zero_le _, Nat.one_pos⟩

/-- Settles O56: `C_FREQ` bounds the counts, which bound the weights of `C_BUILD`, the decoder's are 0, and a code is a
path of at most 256 turns. -/
theorem stepKeepsWidths : Obligations.StepKeepsWidths := by
  constructor
  · intro s t hs hstep
    cases step_does hstep with
    | @phase i h _ _ hi _ hrun => exact countsFit_exec (s := { s with host := h }) (.inl hi) hs hrun
    | @command i h _ hi hrun => exact countsFit_exec (s := { s with host := h }) (.inr hi) hs hrun
    | badCommand => exact hs
    | reset => exact reset_countsFit
    | hostEvent => exact hs
  · intro s t hs hstep
    cases step_does hstep with
    | @phase i h _ _ _ _ hrun => exact codesFit_exec (s := { s with host := h }) hs hrun
    | @command i h _ _ hrun => exact codesFit_exec (s := { s with host := h }) hs hrun
    | badCommand => exact hs
    | reset => exact reset_codesFit
    | hostEvent => exact hs

/-- Settles O53: the reset state's registers are 0 and its tables hold one entry each, throughout. -/
theorem resetMeetsTheInvariants : Obligations.ResetMeetsTheInvariants :=
  ⟨⟨rfl, rfl, rfl⟩, reset_inRange, reset_countsFit, reset_codesFit⟩

end Sys2Proof.Machine
end

section
/-! The rest of COMPRESS and of the file (R67 to R69, R76, R182 to R186, R191, R206): the second scan, the fields that are
written, the end of a command, and the empty input. -/

namespace Sys2Proof

/-! ## The file of an open output -/

/-- Fewer than eight bits are no byte yet (R36). -/
theorem packBytes_of_lt {b : Bits} (h : b.length < 8) : packBytes b = [] := by
  match b, h with
  | [], _ | [_], _ | [_, _], _ | [_, _, _], _ | [_, _, _, _], _ | [_, _, _, _, _], _ | [_, _, _, _, _, _], _
  | [_, _, _, _, _, _, _], _ => rfl

/-- Packing takes the whole bytes of the bits, and drops no other than the last few (R36, R67). -/
theorem packBytes_take {k : Nat} {b : Bits} (hk : 8 * k ≤ b.length) (hlast : b.length < 8 * k + 8) :
    packBytes b = packBytes (b.take (8 * k)) := by
  induction k generalizing b with
  | zero => rw [packBytes_of_lt (by omega)]; rfl
  | succ k ih =>
    have hbyte : (b.take 8).length = 8 := List.length_take_of_le (by omega)
    have htake : b.take (8 * (k + 1)) = b.take 8 ++ (b.drop 8).take (8 * k) := by
      rw [Nat.mul_succ, Nat.add_comm, List.take_add]
    have hrest := ih (b := b.drop 8) (by rw [List.length_drop]; omega) (by rw [List.length_drop]; omega)
    calc packBytes b = packBytes (b.take 8 ++ b.drop 8) := by rw [List.take_append_drop]
      _ = packBytes (b.take (8 * (k + 1))) := by
        rw [packBytes_append hbyte, htake, packBytes_append hbyte, hrest]

namespace Machine

/-- Settles O33: the padding completes the last byte, and before the close the whole bytes and the pending bits are the
bits. -/
theorem fileIsThePaddedBits : Obligations.FileIsThePaddedBits := by
  intro o
  refine ⟨fun hc => ⟨?_, fun b hb => List.eq_of_mem_replicate hb, ?_, unpackBytes_file hc, ?_⟩, fun hopen => ?_⟩
  · rw [padFor, List.length_replicate]
    omega
  · rw [List.length_append, padFor, List.length_replicate]
    omega
  · simp [OutStream.pending, hc]
  · have hwhole : (o.bits.take (8 * (o.bits.length / 8))).length = 8 * (o.bits.length / 8) :=
      List.length_take_of_le (by omega)
    have hfile : unpackBytes o.file = o.bits.take (8 * (o.bits.length / 8)) := by
      rw [OutStream.file, hopen, if_neg Bool.false_ne_true, packBytes_take (k := o.bits.length / 8) (by omega) (by omega),
        unpackBytes_packBytes hwhole]
    have hpending : o.pending = o.bits.drop (8 * (o.bits.length / 8)) := by
      simp [OutStream.pending, hopen, Nat.mul_comm]
    rw [hfile, hpending, List.take_append_drop, List.length_drop]
    exact ⟨rfl, by omega⟩

/-! ## The phases that write -/

/-- Settles O29: the loop writes the codewords of all the bytes, and the read that ends the input ends the phase. -/
theorem payloadIsTheCodewords : Obligations.PayloadIsTheCodewords := by
  intro s i S hi hr hdata hcode hopen
  have hrun := execCPayload_encodes hi hr hdata hcode hopen
  have hout : ((afterEos ((s.rewound i).encodeBytes S) 8).setPhase 7).out = outPlus s (s.codewords S) := rfl
  obtain ⟨pos, hscan⟩ := scanned_inp (s := s) (j := i) S.length
  have hinp : ((afterEos ((s.rewound i).encodeBytes S) 8).setPhase 7).inp =
      some { i with pos := pos, log := i.log ++ scanLog S.length } := hscan
  refine ⟨_, hrun, hout, rfl, ?_, ⟨i, _, hi, hinp, rfl⟩, ?_⟩
  · rw [SameInput, hi, hinp]
    rfl
  · cases s
    rfl

/-- What is appended to an open output, as the stream itself. -/
theorem put_of_some {s : State} {o : OutStream} (ho : s.out = some o) (b : Bits) :
    s.put b = { s with out := some { o with bits := o.bits ++ b } } := by
  simp [State.put, outPlus, ho]

/-- Settles O31: each of the two phases appends one field. -/
theorem magicAndTerminatorAreWritten : Obligations.MagicAndTerminatorAreWritten := by
  intro s o ho hc ha
  have hopen : s.OutOpen := ⟨o, ho, hc, ha⟩
  constructor
  · simp only [exec, execCMagic, outBits_put hopen, andThen_of_next, put_of_some ho, State.setPhase]
  · simp only [exec, execCTerm, outBits_put hopen, andThen_of_next, put_of_some ho, State.setPhase]
    rfl

/-- The end of a command on an open output (R186, R206). -/
theorem endCommand_of_open {s : State} {o : OutStream} (ho : s.out = some o) (hc : o.closed = false)
    (ha : o.abandoned = false) :
    endCommand s = .next { s with out := some { o with closed := true }, phase := 0, runState := .done } := by
  simp [endCommand, outClose, ho, hc, ha, State.setPhase]

/-- Settles O32: both phases are the end of a command. -/
theorem closeEndsInSuccess : Obligations.CloseEndsInSuccess :=
  fun _ _ ho hc ha => ⟨endCommand_of_open ho hc ha, endCommand_of_open ho hc ha⟩

/-! ## The empty input -/

/-- The sentinel alone is counted in an empty input (R122). -/
theorem positives_countTable_nil : positives (countTable []) = [(256, 1)] := by
  have hmem : ∀ c, c ∈ positives (countTable []) ↔ c ∈ [((256 : Symbol), 1)] := by
    rintro ⟨x, w⟩
    rw [mem_positives, countTable, Vector.getElem?_ofFn, List.mem_singleton, Prod.mk.injEq]
    by_cases hx : x = 256
    · subst hx
      simp [countOf, eq_comm]
      omega
    · have hne : x.toNat ≠ 256 := fun h => hx (BitVec.eq_of_toNat_eq h)
      have hzero : countOf [] x.toNat = 0 := by simp [countOf, hne]
      refine iff_of_false (fun h => ?_) fun h => hx h.1
      obtain ⟨hentry, hw⟩ := h
      simp only [hzero, Option.dite_none_right_eq_some, Option.some.injEq] at hentry
      exact hw.ne hentry.2
  have hnodup : (positives (countTable [])).Nodup := (positives_nodup _).of_map _
  exact List.perm_singleton.mp ((List.perm_ext_iff_of_nodup hnodup (List.nodup_singleton _)).mpr hmem)

/-- Settles O58: COMPRESS as a function (O57) on no bytes, where the trie is the wrapped sentinel. -/
theorem emptyInputCompresses : Obligations.EmptyInputCompresses := by
  intro s i hidle hhost hi hr hdata ho
  obtain ⟨t, T, hrun, hdone, herr, -, hhuffman, hout, -⟩ :=
    compressOutputAsAFunction s i [] hidle hhost hi hr hdata (Nat.zero_le _) ho
  have hsole : huffman (positives (countTable [])) = some (.internal 1 (.leaf 256 1) (.leaf 0 0)) := by
    rw [positives_countTable_nil]
    rfl
  obtain rfl := Option.some.inj (hsole.symm.trans hhuffman)
  have hfile : serBits (.internal 1 (.leaf 256 1) (.leaf 0 0)) ++ payloadBits (.internal 1 (.leaf 256 1) (.leaf 0 0)) [] =
      [false, true, true, false, false, false, false, false, false, false, false,
        true, false, false, false, false, false, false, false, false, false, false] := by decide
  rw [List.append_assoc, hfile] at hout
  exact ⟨t, hrun, hdone, herr, hout⟩

end Machine

end Sys2Proof
end

section
/-! The step, the host's registers and events (R21 to R24, R73, R92 to R94, R231, R244, R260 to R266), each by the case of the
schedule or of the registers that it is about. -/

namespace Sys2Proof.Machine

/-! ## The step -/

/-- The core's own step while a command runs (R24). -/
theorem fetchCore_of_busy {s : State} {i : Instr} (hbusy : s.runState = .busy) (hi : decodePhase s.phase = .ok i) :
    fetchCore s = .instr i s := by
  simp only [fetchCore, if_pos hbusy, hi]

/-- The core's own step while no command runs (R244). -/
theorem fetchCore_of_not_busy {s : State} (hidle : s.runState ≠ .busy) : fetchCore s = .settled (.next s) :=
  if_neg hidle

/-- Settles O1: with no event and with a wait the core's own step is fetched, with a command byte the command. -/
theorem stepRunsTheDecodedInstruction : Obligations.StepRunsTheDecodedInstruction := by
  intro s i h v
  refine ⟨fun hhost hbusy hi => ?_, fun hhost hbusy hi => ?_, step_command, fun hhost hidle => ?_⟩
  · simp only [step, fetch, hhost, fetchCore_of_busy hbusy hi]
  · have hcore := fetchCore_of_busy (s := { s with host := h }) hbusy hi
    simp only [step, fetch, hhost, hcore]
  · simp only [step, fetch, hhost, fetchCore_of_not_busy hidle]

/-- Settles O4: the words are given bit by bit. -/
theorem writtenWordsDecode : Obligations.WrittenWordsDecode := by
  unfold Obligations.WrittenWordsDecode
  decide

/-! ## The host's registers -/

/-- Settles O7: the reset state is written out. -/
theorem resetControlRegisters : Obligations.ResetControlRegisters := by
  refine ⟨rfl, rfl, rfl, rfl, rfl, rfl, rfl, rfl, rfl⟩

/-- There is a register at three offsets only (R73). -/
theorem hostReg_eq_none {off : Nat} (h₀ : off ≠ 0x0) (h₄ : off ≠ 0x4) (h₈ : off ≠ 0x8) : hostReg off = none := by
  unfold hostReg
  split
  · exact absurd rfl h₀
  · exact absurd rfl h₄
  · exact absurd rfl h₈
  · rfl

theorem runState_code_lt (r : RunState) : r.code < 4 := by
  cases r <;> decide

/-- The fields of `STATUS` (R22). -/
theorem statusByte_fields (s : State) :
    s.statusByte.extractLsb' 2 2 = 0 ∧ s.statusByte.extractLsb' 4 4 = s.phase ∧
      s.statusByte.extractLsb' 0 2 = BitVec.ofNat 2 s.runState.code := by
  have hcode := runState_code_lt s.runState
  have hphase := s.phase.isLt
  have hbyte : s.statusByte.toNat = s.phase.toNat * 16 + s.runState.code := by
    rw [State.statusByte, BitVec.toNat_ofNat, Nat.mod_eq_of_lt (by omega)]
  refine ⟨BitVec.eq_of_toNat_eq ?_, BitVec.eq_of_toNat_eq ?_, BitVec.eq_of_toNat_eq ?_⟩
  · rw [BitVec.extractLsb'_toNat, hbyte, Nat.shiftRight_eq_div_pow]
    change _ = 0
    omega
  · simp only [BitVec.extractLsb'_toNat, hbyte, Nat.shiftRight_eq_div_pow]
    omega
  · simp only [BitVec.extractLsb'_toNat, hbyte, Nat.shiftRight_eq_div_pow, BitVec.toNat_ofNat]
    omega

/-- Settles O8: each register's byte is made of the fields that are read off it. -/
theorem hostReadsTheThreeRegisters : Obligations.HostReadsTheThreeRegisters := by
  intro s
  obtain ⟨hzero, hphase, hstate⟩ := statusByte_fields s
  refine ⟨rfl, ⟨_, rfl, hzero, hphase, ?_⟩, ⟨_, rfl, ?_⟩, fun off h₀ h₄ h₈ => ?_⟩
  · rw [hstate]
    cases s.runState <;> rfl
  · rw [State.errByte]
    cases s.err <;> decide
  · rw [State.hostRead, hostReg_eq_none h₀ h₄ h₈]

/-- Settles O9: the access is settled by the register at its offset, or refused where there is none. -/
theorem otherHostAccesses : Obligations.OtherHostAccesses := by
  intro s h v off
  refine ⟨fun hoff hhost => ?_, fun hoff hhost => ?_, fun h₀ h₄ h₈ hhost => ?_⟩
  · rcases hoff with rfl | rfl <;> simp only [step, fetch, hhost, fetchWrite, hostReg]
  · rcases hoff with rfl | rfl | rfl <;> simp only [step, fetch, hhost, fetchRead, hostReg]
  · have hnone := hostReg_eq_none h₀ h₄ h₈
    rcases hhost with hhost | hhost
    · simp only [step, fetch, hhost, fetchWrite, hnone]
    · simp only [step, fetch, hhost, fetchRead, hnone]

/-! ## Commands and resets -/

/-- Settles O11: both commands are one acceptance with their own byte and phase. -/
theorem commandsAreAccepted : Obligations.CommandsAreAccepted := by
  intro s
  exact ⟨fun hidle => ⟨if_neg hidle, if_neg hidle⟩,
    fun hbusy => ⟨startCommand_of_busy hbusy 0x01 1, startCommand_of_busy hbusy 0x02 9⟩⟩

/-- Settles O13: the event is the reset of the state, and the mark of an abandoned output tells a running command. -/
theorem resetEventRestoresControl : Obligations.ResetEventRestoresControl := by
  intro s h hhost
  have hrun : step s = .next (State.doReset { s with host := h }) := by simp only [step, fetch, hhost]
  refine ⟨_, hrun, rfl, rfl, rfl, rfl, rfl, rfl, rfl, rfl, fun hidle => ?_, fun hbusy => ?_⟩
  · simp [hidle]
  · simp [hbusy]

/-- Settles O14: the bits that the phase would have written are those behind the ones before it. -/
theorem resetInsideAPhaseLeavesOutputOpen : Obligations.ResetInsideAPhaseLeavesOutputOpen := by
  intro s h k i o p t w hhost hbusy hi hrun ho hp hbits
  have hcore := fetchCore_of_busy (s := { s with host := h }) hbusy hi
  have hstep : step s = .next (State.abandon { s with host := h } k (.next t)) := by
    simp only [step, fetch, hhost, fetchResetDuring, hcore, hrun]
  have hwritten : t.outBitsSoFar.drop (State.outBitsSoFar { s with host := h }).length = w := by
    simp [State.outBitsSoFar, ho, hp, hbits]
  refine ⟨_, hstep, rfl, rfl, rfl, rfl, rfl, rfl, rfl, ?_⟩
  simp only [State.abandon, hwritten]
  simp [ho, hbusy]

/-- Settles O16: each clause is the case of one event or of one port operation. -/
theorem hostStreamEventsAndBreaches : Obligations.HostStreamEventsAndBreaches := by
  intro s n v
  refine ⟨fun d p r h hidle hhost => ?_, fun d h hhost => ⟨fun hi => ?_, fun i hi => ?_⟩, fun hi => ⟨?_, ?_⟩,
    fun ho => ⟨?_, ?_⟩, fun o ho hused => ?_, fun i hi hr => ?_, fun d p r h hbusy hhost => ?_⟩
  · simp only [step, fetch, hhost, fetchAttach, if_neg hidle, State.attach]
  · simp [step, fetch, hhost, State.changeInput, hi]
  · simp [step, fetch, hhost, State.changeInput, hi]
  · simp only [inBits, hi]
  · simp only [inRewind, hi]
  · simp only [outBits, ho]
  · simp only [outClose, ho]
  · have hused' : (o.closed || o.abandoned) = true := by simpa using hused
    simp only [outBits, outClose, ho, if_pos hused', and_self]
  · simp only [inRewind, hi, hr, Bool.false_eq_true, if_false]
  · simp only [step, fetch, hhost, fetchAttach, if_pos hbusy]

end Sys2Proof.Machine
end

section
/-! Rules of the tokens of the file header on their own (R96 to R98, R164 to R168, R202), and of the phases that read them. -/

namespace Sys2Proof.Machine

/-! ## The magic field -/

/-- The magic field that holds `MAGIC` (R96). -/
theorem execMagic_accepts {m : BitVec 32} (hm : m = Config.magic) (s : State) :
    execMagic m s = .next { s with phase := 10 } := if_pos hm

/-- Settles O40: the field is compared with the constant. -/
theorem magicTokenIsChecked : Obligations.MagicTokenIsChecked := by
  intro s m
  refine ⟨fun hm => execMagic_accepts hm s, fun hm o ho hc ha => ?_⟩
  have hraise : execMagic m s = raiseErr .badMagic s := if_neg hm
  exact hraise.trans (raiseEndsTheCommand .badMagic s o ho hc ha)

/-- Settles O34: the 32 bits spell the constant. -/
theorem magicIsAccepted : Obligations.MagicIsAccepted := by
  intro s rest i hi hrest
  have hfield : takeField 32 s.inRest = some (Config.magic.toNat, rest) := by
    rw [hrest]
    exact takeField_field rest Config.magic.isLt
  obtain ⟨hlen, hvalue, -⟩ := takeField_eq_some.mp hfield
  have hread := execDMagic_reads hi hlen
  rw [if_pos hvalue] at hread
  exact ⟨hread, advance_field_inRest hfield⟩

/-! ## The tokens of the tree header -/

/-- An internal-node token where a node is left. -/
theorem internalToken_of_room {s : State} (hroom : s.nodeCount < 513) :
    internalToken s = .next (true, s.pushInternal) := if_neg (Nat.not_le.mpr hroom)

theorem execNodeInternal_of_room {s : State} (hroom : s.nodeCount < 513) :
    execNodeInternal s = .next s.pushInternal := by
  rw [execNodeInternal, internalToken_of_room hroom]
  rfl

/-- A raise inside a loop, seen from the token. -/
theorem andThen_raiseRound (e : Err) (s : State) :
    (andThen (raiseRound e s) fun p => .next p.2) = raiseErr e s := by
  rw [raiseRound, andThen_assoc]
  exact andThen_next _

/-- Settles O41: with room the node's index is pushed, or only taken where the stack is full. -/
theorem internalTokenWaitsOnTheStack : Obligations.InternalTokenWaitsOnTheStack := by
  intro s
  refine ⟨fun hroom hsp => ?_, fun hroom hsp => ?_, fun hfull o ho hc ha => ?_⟩
  · exact (execNodeInternal_of_room hroom).trans (congrArg _ (pushInternal_withStk (s := s) hsp))
  · exact (execNodeInternal_of_room hroom).trans (congrArg _ (pushInternal_of_full hsp))
  · have htoken : internalToken s = raiseRound .treeOverflow s := if_pos hfull
    have hraise : execNodeInternal s = raiseErr .treeOverflow s := by
      rw [execNodeInternal, htoken]
      exact andThen_raiseRound _ s
    exact hraise.trans (raiseEndsTheCommand .treeOverflow s o ho hc ha)

/-- A leaf token with no node left (R167). -/
theorem execNodeLeaf_of_full {s : State} (sym : Symbol) (hfull : 513 ≤ s.nodeCount) :
    execNodeLeaf sym s = raiseErr .treeOverflow s := by
  have htoken : leafToken sym s = raiseRound .treeOverflow s := if_pos hfull
  rw [execNodeLeaf, htoken]
  exact andThen_raiseRound _ s

/-- A leaf token with a reserved symbol (R166). -/
theorem execNodeLeaf_of_reserved {s : State} {sym : Symbol} (hroom : s.nodeCount < 513) (hsym : 256 < sym.toNat) :
    execNodeLeaf sym s = raiseErr .badSymbol s.takeIndex := by
  have hcap : ¬ Config.nodeCap ≤ s.nodeCount := Nat.not_le.mpr hroom
  have hbad : Config.eosSym < sym := hsym
  rw [execNodeLeaf, leafToken, if_neg hcap, if_pos hbad]
  exact andThen_raiseRound _ _

/-- A good leaf token: the leaf is written, the subtrees that it ends are closed, and where it ends the whole tree the root
is checked (R164). -/
theorem execNodeLeaf_of_room {s : State} {sym : Symbol} (hroom : s.nodeCount < 513) (hsym : sym.toNat ≤ 256) :
    execNodeLeaf sym s =
      andThen (closeSubtrees s.sp s.nodeCount (s.takeIndex.writeNode s.nodeCount (leafNode sym 0))) fun p =>
        p.1.elim (.next p.2) fun root => finishHeader root p.2 := by
  have hcap : ¬ Config.nodeCap ≤ s.nodeCount := Nat.not_le.mpr hroom
  have hgood : ¬ Config.eosSym < sym := Nat.not_lt.mpr hsym
  rw [execNodeLeaf, leafToken, if_neg hcap, if_neg hgood, andThen_assoc]
  refine congrArg (andThen _) (funext fun ⟨done, t⟩ => ?_)
  cases done with
  | none => rfl
  | some root =>
    simp only [andThen_assoc, andThen_of_next, Option.elim_some, andThen_next]

/-- The last of the finished nodes is an internal node of the store (R164). -/
theorem finishNodes_last {es : List StkEntry} {r : StkEntry} (i : Nat) (nodes : Vector Node 513)
    (hlast : es.getLast? = some r) (hr : r.node < 513) :
    ∃ nd, (finishNodes es i nodes)[r.node]? = some nd ∧ nd.leaf = false := by
  induction es generalizing i nodes with
  | nil => cases hlast
  | cons e es ih =>
    cases es with
    | nil =>
      obtain rfl : e = r := by simpa using hlast
      exact ⟨_, Vector.getElem?_setIfInBounds_self_of_lt hr, rfl⟩
    | cons d es => exact ih _ _ (by simpa [List.getLast?_cons] using hlast)

/-- Settles O42: the leaf completes the finished nodes on top, and then the node below them has its left subtree, or the
last of them is the root. -/
theorem leafTokenFillsTheTree : Obligations.LeafTokenFillsTheTree := by
  intro s sym es hroom hsym hdone
  have hrun := execNodeLeaf_of_room hroom hsym
  refine ⟨fun n e hsp htop hwaits hstk => hrun.trans ?_, fun r hsp hstk hlast hr => hrun.trans ?_⟩
  · have hclose := closeSubtrees_finished es (n := n + 1) (i := s.nodeCount)
      (s := s.takeIndex.writeNode s.nodeCount (leafNode sym 0)) hdone
      (fun k hk => by rw [Nat.add_right_comm]; exact hstk k hk)
    rw [hsp, hclose]
    simp only [closeSubtrees, writeNode_stk, takeIndex_stk, htop, hwaits, Bool.false_eq_true, if_false, andThen_of_next]
    rfl
  · have hclose := closeSubtrees_finished es (n := 0) (i := s.nodeCount)
      (s := s.takeIndex.writeNode s.nodeCount (leafNode sym 0)) hdone
      (fun k hk => by rw [Nat.zero_add]; exact hstk k hk)
    rw [Nat.zero_add] at hclose
    obtain ⟨nd, hnd, hinternal⟩ := finishNodes_last s.nodeCount (s.nodes.setIfInBounds s.nodeCount (leafNode sym 0))
      hlast hr
    rw [hsp, hclose, hlast]
    exact finishHeader_internal hnd hinternal

/-- Settles O43: no node, no Symbol, or no internal root. -/
theorem leafTokenErrors : Obligations.LeafTokenErrors := by
  intro s sym hopen
  refine ⟨fun hfull => ?_, fun hroom hsym => ?_, fun hroom hsym hsp => ?_⟩
  · exact ⟨_, (execNodeLeaf_of_full sym hfull).trans (raiseErr_of_open hopen), rfl, rfl, rfl, rfl⟩
  · have hopen' : s.takeIndex.OutOpen := hopen
    exact ⟨_, (execNodeLeaf_of_reserved hroom hsym).trans (raiseErr_of_open hopen'), rfl, rfl, rfl, rfl⟩
  · have hrun := execNodeLeaf_of_room hroom hsym
    rw [hsp] at hrun
    have hleaf : (s.takeIndex.writeNode s.nodeCount (leafNode sym 0)).nodes[s.nodeCount]? = some (leafNode sym 0) :=
      Vector.getElem?_setIfInBounds_self_of_lt hroom
    have hfinish := finishHeader_leaf (s := { s.takeIndex.writeNode s.nodeCount (leafNode sym 0) with sp := 0 }) hleaf rfl
    have hopen' : State.OutOpen
        { s.takeIndex.writeNode s.nodeCount (leafNode sym 0) with sp := 0, root := s.nodeCount } := hopen
    exact ⟨_, hrun.trans (hfinish.trans (raiseErr_of_open hopen')), rfl, rfl, rfl, rfl, rfl⟩

/-- Settles O46: the padding's operation is to do nothing. -/
theorem paddingHasNoEffect : Obligations.PaddingHasNoEffect := fun _ _ => rfl

/-! ## The tokens in the phases that read them -/

theorem decodeMagic_ok {b x : Bits} {m : BitVec 32} (h : decodeMagic b = .ok (.magic m, x)) :
    ∃ v, takeField 32 b = some (v, x) ∧ m = BitVec.ofNat 32 v := by
  unfold decodeMagic at h
  split at h
  · rename_i v y hfield
    cases h
    exact ⟨v, hfield, rfl⟩
  · cases h

/-- The bits of an internal-node token (R97). -/
theorem decodeTree_internal {b x : Bits} (h : decodeTree b = .ok (.nodeInternal, x)) : b = false :: x := by
  match b with
  | [] => cases h
  | false :: y =>
    cases h
    rfl
  | true :: y =>
    simp only [decodeTree] at h
    split at h
    · cases h
    · split at h <;> cases h

/-- The bits of a leaf token (R98). -/
theorem decodeTree_leaf {b x : Bits} {sym : Symbol} (h : decodeTree b = .ok (.nodeLeaf sym, x)) :
    ∃ y v, b = true :: y ∧ takeField 9 y = some (v, x) ∧ sym = BitVec.ofNat 9 v := by
  match b with
  | [] => cases h
  | false :: y => cases h
  | true :: y =>
    simp only [decodeTree] at h
    split at h
    · cases h
    · rename_i v z hfield
      split at h <;> cases h
      exact ⟨y, v, rfl, hfield, rfl⟩

/-- Settles O2: the phase or the round reads the token's bits, and does then what the token does. -/
theorem headerTokensRunInTheirPhases : Obligations.HeaderTokensRunInTheirPhases := by
  intro s j fuel rest hj
  refine ⟨fun m hm => ?_, fun hroom hdecode => ?_, fun sym hroom hdecode => ⟨?_, rfl⟩⟩
  · obtain ⟨v, hfield, rfl⟩ := decodeMagic_ok hm
    simp only [exec, execDMagic, inBits_field hj hfield, andThen_of_next]
  · have hround := headerLoop_internal (fuel := fuel) hj (decodeTree_internal hdecode) hroom
    have htoken : execNodeInternal (s.advance 1) = .next (s.advance 1).pushInternal := execNodeInternal_of_room hroom
    rw [hround, exec, htoken, andThen_of_next]
  · obtain ⟨y, v, hrest, hfield, rfl⟩ := decodeTree_leaf hdecode
    exact headerLoop_leafToken hj hrest hroom hfield

end Sys2Proof.Machine
end
